-- ==== Sys2Proof/Word.lean ====
section
/-! DEFINITION. The value types of the block (spec/00_scope.md rules R5, R9; spec/30_encoding.md rule R45).
Every value is an unsigned number; bit 0 is the least significant bit; nothing is ever sign-extended (R9).
WMAX is 64 and is not open (R5), so the data path is one fixed-width type. -/

namespace Sys2Proof

/-- A WMAX-bit value: `wdata`, `rdata`, a spec register, an accumulator, one whole table entry (R5). -/
abbrev Word := BitVec 64

/-- One message unit or output unit: a byte of 8 bits (R8). -/
abbrev Byte := BitVec 8

/-- One command word, always exactly 16 bits (R45). -/
abbrev CmdWord := BitVec 16

/-- A 4-bit field of a command word, or the 4-bit status of a response (R11, R47). -/
abbrev Nibble := BitVec 4

end Sys2Proof
end

