-- ==== Sys2Proof/Syntax.lean ====
section
/-! DEFINITION. The command set, version 1: one constructor per row of the opcode map (spec/30_encoding.md rule R48;
spec/opcode_table.json). A constructor carries the operand fields of the command WORD (R47). The 64-bit `wdata` operand
of WRSPEC and UPDW is no field of the word: it is sampled together with it on the command port (R50) and the machine
reads it from its own port. -/

namespace Sys2Proof

/-- A command, with the fields of its word already extracted (rules R47, R48). -/
inductive Instr where
  /-- `WRSPEC WIDTH, v` (R67). -/
  | wrspecWidth
  /-- `WRSPEC POLY, v` (R68). -/
  | wrspecPoly
  /-- `WRSPEC INIT, v` (R69). -/
  | wrspecInit
  /-- `WRSPEC XOROUT, v` (R70). -/
  | wrspecXorout
  /-- `BUILD.N` (`r` false) and `BUILD.R` (`r` true): one command with one rule (R48, R90). -/
  | build (r : Bool)
  /-- `RDSPEC WIDTH` (R73). -/
  | rdspecWidth
  /-- `RDSPEC POLY` (R74). -/
  | rdspecPoly
  /-- `RDSPEC INIT` (R75). -/
  | rdspecInit
  /-- `RDSPEC XOROUT` (R76). -/
  | rdspecXorout
  /-- `RDSPEC REFL` (R77). -/
  | rdspecRefl
  /-- `RDSPEC RPOLY` (R78). -/
  | rdspecRpoly
  /-- `RDSPEC STATUS` (R79). -/
  | rdspecStatus
  /-- `RDTBL idx` (R97). -/
  | rdtbl (idx : Byte)
  /-- `NEW ad` (R101). -/
  | new (rd : Fin 16)
  /-- `COPY ad, as` (R102). -/
  | copy (rd rs : Fin 16)
  /-- `UPDB ad, imm8` (R103). -/
  | updb (rd : Fin 16) (imm8 : Byte)
  /-- `UPDW ad, n, v`; `n` is a byte count, legal when 0 to 8 (R104, R47). -/
  | updw (rd : Fin 16) (n : Nat)
  /-- `CRCVAL as` (R106). -/
  | crcval (rs : Fin 16)
  /-- `DIGEST as` (R107). -/
  | digest (rs : Fin 16)
  /-- `HEXDIG as` (R108). -/
  | hexdig (rs : Fin 16)
deriving DecidableEq, Repr

end Sys2Proof
end

