-- ==== Sys2Proof/WellFormed.lean ====
section
/-! DEFINITION. Which terms of `Instr` are commands of the spec (spec/30_encoding.md rules R47, R48). Every operand but
one is bounded by its type: an accumulator field is any value 0 to 15 (an index not below NACC is a legal encoding and
faults later, R55), an immediate and a table index are any byte. The one condition match and mask cannot express is
UPDW's n ≤ 8. -/

namespace Sys2Proof

/-- The well-formedness check: UPDW's byte count is at most 8 (R48). -/
def Instr.wf : Instr → Bool
  | .wrspecWidth => true
  | .wrspecPoly => true
  | .wrspecInit => true
  | .wrspecXorout => true
  | .build _ => true
  | .rdspecWidth => true
  | .rdspecPoly => true
  | .rdspecInit => true
  | .rdspecXorout => true
  | .rdspecRefl => true
  | .rdspecRpoly => true
  | .rdspecStatus => true
  | .rdtbl _ => true
  | .new _ => true
  | .copy _ _ => true
  | .updb _ _ => true
  | .updw _ n => decide (n ≤ 8)
  | .crcval _ => true
  | .digest _ => true
  | .hexdig _ => true

end Sys2Proof
end

