-- ==== Sys2Proof/Decode.lean ====
section
/-! DEFINITION. The decoder and the encoder of the command word (spec/30_encoding.md rules R45 to R49, R55). Decoding is
total on all 65536 words, depends on the word alone, and rejects every word outside the opcode map by name. The encoder
is written from the same formats (R46). -/

namespace Sys2Proof

/-! ## Fields (R47) -/

/-- `op = c[15:12]`. -/
def opField (c : CmdWord) : Nibble := c.extractLsb' 12 4

/-- `rd = sel = c[11:8]`. -/
def rdField (c : CmdWord) : Nibble := c.extractLsb' 8 4

/-- `rs = c[7:4]`. -/
def rsField (c : CmdWord) : Nibble := c.extractLsb' 4 4

/-- `fn = n = c[3:0]`. -/
def fnField (c : CmdWord) : Nibble := c.extractLsb' 0 4

/-- `imm8 = idx = c[7:0]`; MBZ in format S. -/
def lowByte (c : CmdWord) : Byte := c.extractLsb' 0 8

/-- The MBZ field `c[11:1]` of format B. -/
def buildMbz (c : CmdWord) : BitVec 11 := c.extractLsb' 1 11

/-- The reflection flag `r = c[0]`, 1 = reflected. -/
def rFlag (c : CmdWord) : Bool := c.getLsbD 0

/-- An accumulator field as an index 0 to 15. -/
def accIndex (f : Nibble) : Fin 16 := f.toFin

/-- An accumulator index as a 4-bit field. -/
def accNibble (i : Fin 16) : Nibble := BitVec.ofFin i

/-! ## Decoding (R48, R49, R55) -/

/-- Why a word is no command (the cases of rule R49). Each is the fault IllegalCommand of the block. -/
inductive Illegal where
  /-- op is 0x0, 0xC, 0xD, 0xE or 0xF. -/
  | reservedOpcode
  /-- WRSPEC with sel ≥ 4, or RDSPEC with sel ≥ 7. -/
  | reservedSelector
  /-- A field that must be zero is not. -/
  | nonzeroMbz
  /-- UPDW with n ≥ 9. -/
  | countAboveEight
deriving DecidableEq, Repr

/-- op 0x1, format S: sel 0 to 3 and c[7:0] = 0. -/
def decodeWrspec (c : CmdWord) : Except Illegal Instr :=
  if lowByte c ≠ 0 then .error .nonzeroMbz
  else match (rdField c).toNat with
    | 0 => .ok .wrspecWidth
    | 1 => .ok .wrspecPoly
    | 2 => .ok .wrspecInit
    | 3 => .ok .wrspecXorout
    | _ => .error .reservedSelector

/-- op 0x2, format B: c[11:1] = 0. -/
def decodeBuild (c : CmdWord) : Except Illegal Instr :=
  if buildMbz c ≠ 0 then .error .nonzeroMbz else .ok (.build (rFlag c))

/-- op 0x3, format S: sel 0 to 6 and c[7:0] = 0. -/
def decodeRdspec (c : CmdWord) : Except Illegal Instr :=
  if lowByte c ≠ 0 then .error .nonzeroMbz
  else match (rdField c).toNat with
    | 0 => .ok .rdspecWidth
    | 1 => .ok .rdspecPoly
    | 2 => .ok .rdspecInit
    | 3 => .ok .rdspecXorout
    | 4 => .ok .rdspecRefl
    | 5 => .ok .rdspecRpoly
    | 6 => .ok .rdspecStatus
    | _ => .error .reservedSelector

/-- op 0x4, format T: c[11:8] = 0. -/
def decodeRdtbl (c : CmdWord) : Except Illegal Instr :=
  if rdField c ≠ 0 then .error .nonzeroMbz else .ok (.rdtbl (lowByte c))

/-- op 0x5, format A with rs and fn MBZ. -/
def decodeNew (c : CmdWord) : Except Illegal Instr :=
  if lowByte c ≠ 0 then .error .nonzeroMbz else .ok (.new (accIndex (rdField c)))

/-- op 0x6, format A with fn MBZ. -/
def decodeCopy (c : CmdWord) : Except Illegal Instr :=
  if fnField c ≠ 0 then .error .nonzeroMbz
  else .ok (.copy (accIndex (rdField c)) (accIndex (rsField c)))

/-- op 0x7, format I: every word is UPDB. -/
def decodeUpdb (c : CmdWord) : Except Illegal Instr :=
  .ok (.updb (accIndex (rdField c)) (lowByte c))

/-- op 0x8, format A with rs MBZ and n at most 8. -/
def decodeUpdw (c : CmdWord) : Except Illegal Instr :=
  if rsField c ≠ 0 then .error .nonzeroMbz
  else if 8 < (fnField c).toNat then .error .countAboveEight
  else .ok (.updw (accIndex (rdField c)) (fnField c).toNat)

/-- op 0x9, 0xA, 0xB, format A with rd and fn MBZ: the command `mk` of the accumulator rs. -/
def decodeRead (mk : Fin 16 → Instr) (c : CmdWord) : Except Illegal Instr :=
  if rdField c ≠ 0 then .error .nonzeroMbz
  else if fnField c ≠ 0 then .error .nonzeroMbz
  else .ok (mk (accIndex (rsField c)))

/-- `decode : 16-bit word → Command ∪ {Illegal}`, total (R55). -/
def decode (c : CmdWord) : Except Illegal Instr :=
  match (opField c).toNat with
  | 0x1 => decodeWrspec c
  | 0x2 => decodeBuild c
  | 0x3 => decodeRdspec c
  | 0x4 => decodeRdtbl c
  | 0x5 => decodeNew c
  | 0x6 => decodeCopy c
  | 0x7 => decodeUpdb c
  | 0x8 => decodeUpdw c
  | 0x9 => decodeRead .crcval c
  | 0xA => decodeRead .digest c
  | 0xB => decodeRead .hexdig c
  | _ => .error .reservedOpcode

/-! ## Encoding (R46, R48) -/

/-- Format S: op, sel, eight MBZ bits. -/
def formatS (op sel : Nibble) : CmdWord := op ++ sel ++ (0 : Byte)

/-- Format B: op, eleven MBZ bits, r. -/
def formatB (op : Nibble) (r : Bool) : CmdWord := op ++ (0 : BitVec 11) ++ BitVec.ofBool r

/-- Format T: op, four MBZ bits, idx. -/
def formatT (op : Nibble) (idx : Byte) : CmdWord := op ++ (0 : Nibble) ++ idx

/-- Format I: op, rd, imm8. -/
def formatI (op rd : Nibble) (imm8 : Byte) : CmdWord := op ++ rd ++ imm8

/-- Format A: op, rd, rs, fn. -/
def formatA (op rd rs fn : Nibble) : CmdWord := op ++ rd ++ rs ++ fn

/-- The word of a well-formed command. -/
def encode : Instr → CmdWord
  | .wrspecWidth => formatS 0x1 0
  | .wrspecPoly => formatS 0x1 1
  | .wrspecInit => formatS 0x1 2
  | .wrspecXorout => formatS 0x1 3
  | .build r => formatB 0x2 r
  | .rdspecWidth => formatS 0x3 0
  | .rdspecPoly => formatS 0x3 1
  | .rdspecInit => formatS 0x3 2
  | .rdspecXorout => formatS 0x3 3
  | .rdspecRefl => formatS 0x3 4
  | .rdspecRpoly => formatS 0x3 5
  | .rdspecStatus => formatS 0x3 6
  | .rdtbl idx => formatT 0x4 idx
  | .new rd => formatA 0x5 (accNibble rd) 0 0
  | .copy rd rs => formatA 0x6 (accNibble rd) (accNibble rs) 0
  | .updb rd imm8 => formatI 0x7 (accNibble rd) imm8
  | .updw rd n => formatA 0x8 (accNibble rd) 0 (BitVec.ofNat 4 n)
  | .crcval rs => formatA 0x9 0 (accNibble rs) 0
  | .digest rs => formatA 0xA 0 (accNibble rs) 0
  | .hexdig rs => formatA 0xB 0 (accNibble rs) 0

/-! ## The opcode map's mask and match (R48) -/

/-- The mask of the command's row: which bits of the word are fixed. -/
def Instr.mask : Instr → CmdWord
  | .wrspecWidth => 0xFFFF
  | .wrspecPoly => 0xFFFF
  | .wrspecInit => 0xFFFF
  | .wrspecXorout => 0xFFFF
  | .build _ => 0xFFFE
  | .rdspecWidth => 0xFFFF
  | .rdspecPoly => 0xFFFF
  | .rdspecInit => 0xFFFF
  | .rdspecXorout => 0xFFFF
  | .rdspecRefl => 0xFFFF
  | .rdspecRpoly => 0xFFFF
  | .rdspecStatus => 0xFFFF
  | .rdtbl _ => 0xFF00
  | .new _ => 0xF0FF
  | .copy _ _ => 0xF00F
  | .updb _ _ => 0xF000
  | .updw _ _ => 0xF0F0
  | .crcval _ => 0xFF0F
  | .digest _ => 0xFF0F
  | .hexdig _ => 0xFF0F

/-- The match of the command's row: the values of the fixed bits. -/
def Instr.matchBits : Instr → CmdWord
  | .wrspecWidth => 0x1000
  | .wrspecPoly => 0x1100
  | .wrspecInit => 0x1200
  | .wrspecXorout => 0x1300
  | .build _ => 0x2000
  | .rdspecWidth => 0x3000
  | .rdspecPoly => 0x3100
  | .rdspecInit => 0x3200
  | .rdspecXorout => 0x3300
  | .rdspecRefl => 0x3400
  | .rdspecRpoly => 0x3500
  | .rdspecStatus => 0x3600
  | .rdtbl _ => 0x4000
  | .new _ => 0x5000
  | .copy _ _ => 0x6000
  | .updb _ _ => 0x7000
  | .updw _ _ => 0x8000
  | .crcval _ => 0x9000
  | .digest _ => 0xA000
  | .hexdig _ => 0xB000

/-! ## The decoder on a word of the opcode table -/

/-- The command the decoder reads from an instruction whose bits are `w`, of which the low `nbits` count. A value that
does not fit in one 16-bit word is no command (R45). -/
def decodeTableWord (nbits w : Nat) : Option Instr :=
  if w % 2 ^ nbits < 2 ^ 16 then (decode (BitVec.ofNat 16 (w % 2 ^ nbits))).toOption else none

end Sys2Proof
end

