-- ==== Sys2Proof/Config.lean ====
section
/-! DEFINITION. What an implementation fixes: NACC, the one open parameter of the block (spec/00_scope.md rule R7;
spec/92_eei_decisions.md, Open parameters; spec/93_implementation_defined.md U14). WMAX = 64 is not open (R5) and is in
the type `Word`. No rule of this spec leaves a result undefined, so there is no free value here.

DESIGN CHOICE (log entry 5): the parameter is carried as constant data beside the state, so that every statement about
every state holds for every value of NACC; the reset machine has the default, 4. -/

namespace Sys2Proof

/-- The parameters of one block. -/
structure Config where
  /-- NACC, the number of accumulator registers (R7). -/
  nacc : Nat
deriving DecidableEq, Repr

/-- The default of rule R7: four accumulators. -/
def Config.default : Config := { nacc := 4 }

/-- The range rule R7 gives the parameter: 1 ≤ NACC ≤ 16. -/
abbrev Config.wf (c : Config) : Prop := 1 ≤ c.nacc ∧ c.nacc ≤ 16

end Sys2Proof
end

