-- ==== Sys2Proof/Machine/State.lean ====
section
/-! DEFINITION. The complete state of the block (spec/10_state.md rule R15), its reset (R27, R140), the command and
response ports (spec/30_encoding.md rules R50, R51), and the closed types of reasons a step can stop.

The spec's own five faults are no stops: a faulting command sets its sticky FAULTS bit, is answered with its code, and
the block goes on (spec/60_exceptions.md rules R120, R125, R126). They are the type `Cause` here, and taking one is a
next state. -/

namespace Sys2Proof.Machine

/-- What the host presents on the command port: the word and the data operand sampled with it (R50). -/
structure PortCmd where
  cmd : CmdWord
  wdata : Word
deriving DecidableEq, Repr

/-- What the block answers on the response port: `resp(status, rdata, obytes)` (R11, R51). -/
structure Resp where
  status : Nibble
  rdata : Word
  /-- Element 0 is the first in time. -/
  obytes : List Byte
deriving DecidableEq, Repr

/-- The five synchronous faults of the block (R121). -/
inductive Cause where
  /-- The word matches no row of the opcode map. -/
  | illegalCommand
  /-- BUILD with S_WIDTH outside W_ADMIT. -/
  | invalidSpecification
  /-- A command that needs the active spec while VALID = 0. -/
  | notConfigured
  /-- An accumulator index not below NACC. -/
  | badAccumulator
  /-- A read of an accumulator with ALIVE = 0. -/
  | deadAccumulator
deriving DecidableEq, Repr

/-- The sticky register FAULTS[1..5], one bit per fault code, each under its fault's name (R15, R22). -/
structure Faults where
  /-- FAULTS[1]. -/
  illegalCommand : Bool
  /-- FAULTS[2]. -/
  invalidSpecification : Bool
  /-- FAULTS[3]. -/
  notConfigured : Bool
  /-- FAULTS[4]. -/
  badAccumulator : Bool
  /-- FAULTS[5]. -/
  deadAccumulator : Bool
deriving DecidableEq, Repr

/-- One listed entry of the table memory: its index and its whole WMAX-bit value (R30: the table is addressed by entry,
never by byte). -/
abbrev Cell := Nat × Word

/-- The state of the block: the twelve rows of R15, then the model's own fields (the parameter, and the two ports as
lists, log entries 1, 3, 4, 5). -/
structure State where
  /-- S_WIDTH: staging register (R18). -/
  sWidth : Word
  /-- S_POLY: staging register (R18). -/
  sPoly : Word
  /-- S_INIT: staging register (R18). -/
  sInit : Word
  /-- S_XOROUT: staging register (R18). -/
  sXorout : Word
  /-- WIDTH: active CRC width, 7 bits (R16). -/
  width : BitVec 7
  /-- POLY: active generator polynomial, top bit implicit (R16). -/
  poly : Word
  /-- REFL: active reflection convention, true = reflected (R16). -/
  refl : Bool
  /-- INIT: active initial register value (R16). -/
  init : Word
  /-- XOROUT: active output XOR mask (R16). -/
  xorout : Word
  /-- RPOLY: POLY with its low WIDTH bits reversed (R17). -/
  rpoly : Word
  /-- VALID: the active spec and the table hold a committed specification (R22). -/
  valid : Bool
  /-- ALIVE[i]: accumulator i holds a value (R22); only i < NACC exist (log entry 8). -/
  alive : Vector Bool 16
  /-- x[i]: the accumulator registers (R20); only i < NACC exist (log entry 8). -/
  x : Vector Word 16
  /-- TABLE: the lookup table memory, in canonical form (R23, R30; log entry 7). -/
  table : List Cell
  /-- FAULTS[1..5] (R22). -/
  faults : Faults
  /-- The model's own: the parameters of this block, constant (log entry 5). -/
  cfg : Config
  /-- The model's own: `wdata` as sampled with the command in execution (R50, log entry 3). -/
  wdata : Word
  /-- The model's own: the commands the host has yet to present, next first (R12, R146, log entry 1). -/
  input : List PortCmd
  /-- The model's own: the responses delivered so far, oldest first (R11, R146, log entry 4). -/
  responses : List Resp
deriving DecidableEq, Repr

/-- Reasons the machine stops with a fault: NONE. "A fault never stops the block, never makes it hang" (R126), and no
behaviour of the block is treated as stuck (spec/93_implementation_defined.md, end of part 1). -/
inductive Fault : Type
deriving DecidableEq, Repr

/-- Reasons the model has no meaning for a step. -/
inductive Refusal where
  /-- Raised by an arm of `exec` for an instruction that has no meaning yet, under its mnemonic; safe. No arm raises it. -/
  | notModelled (mnemonic : String)
deriving DecidableEq, Repr

/-- The block right after reset, for parameters `c` (R27, R140): staging registers 0, VALID 0, every ALIVE 0, every
FAULTS bit 0. The spec leaves WIDTH, POLY, REFL, INIT, XOROUT, RPOLY, x and TABLE unspecified and unobservable; they are
0 here (DESIGN CHOICE, unsafe, log entries 6 and 7). Nothing has been presented and nothing answered. -/
def State.resetOf (c : Config) : State :=
  { sWidth := 0, sPoly := 0, sInit := 0, sXorout := 0
    width := 0, poly := 0, refl := false, init := 0, xorout := 0, rpoly := 0
    valid := false
    alive := Vector.replicate 16 false
    x := Vector.replicate 16 0
    table := []
    faults := ⟨false, false, false, false, false⟩
    cfg := c
    wdata := 0
    input := []
    responses := [] }

/-- The machine right after reset, with the default parameters. -/
def State.reset : State := State.resetOf Config.default

end Sys2Proof.Machine
end

