-- ==== Sys2Proof/Machine/Flags.lean ====
section
/-! DEFINITION. The status bits of the block: VALID, ALIVE, FAULTS, the STATUS image, and the admission checks that read
them (spec/10_state.md rules R19, R22; spec/43_incremental_engine.md rule R109; spec/60_exceptions.md rule R121). There
is no condition code and no arithmetic flag (R22). -/

namespace Sys2Proof.Machine

/-- The fault code: the response's status and the index of the FAULTS bit are the same number (R121). -/
def Cause.code : Cause → Nibble
  | .illegalCommand => 1
  | .invalidSpecification => 2
  | .notConfigured => 3
  | .badAccumulator => 4
  | .deadAccumulator => 5

/-- Read FAULTS[c]. -/
def Faults.get (f : Faults) : Cause → Bool
  | .illegalCommand => f.illegalCommand
  | .invalidSpecification => f.invalidSpecification
  | .notConfigured => f.notConfigured
  | .badAccumulator => f.badAccumulator
  | .deadAccumulator => f.deadAccumulator

/-- `FAULTS[c] <- 1`: the other four bits stay (R125). -/
def Faults.raise (f : Faults) : Cause → Faults
  | .illegalCommand => { f with illegalCommand := true }
  | .invalidSpecification => { f with invalidSpecification := true }
  | .notConfigured => { f with notConfigured := true }
  | .badAccumulator => { f with badAccumulator := true }
  | .deadAccumulator => { f with deadAccumulator := true }

/-- ALIVE[i] for an index of a command's field. -/
def State.isAlive (s : State) (i : Fin 16) : Bool := s.alive[i.val]

/-- `ALIVE[i] <- 1` (NEW and COPY, R22). -/
def State.setAlive (s : State) (i : Fin 16) : State := { s with alive := s.alive.set i.val true i.isLt }

/-- `for i in 0 .. NACC-1: ALIVE[i] <- 0` (BUILD, R90); the slots from NACC on hold 0 always. -/
def State.clearAlive (s : State) : State := { s with alive := Vector.replicate 16 false }

/-! ## Admission checks, each naming the fault it finds (R109) -/

/-- `check_cfg()`: NotConfigured when VALID = 0. -/
def checkCfg (s : State) : Option Cause := if s.valid then none else some .notConfigured

/-- `check_idx(i)`: BadAccumulator when i ≥ NACC. -/
def checkIdx (s : State) (i : Fin 16) : Option Cause := if s.cfg.nacc ≤ i.val then some .badAccumulator else none

/-- `check_live(i)`: DeadAccumulator when ALIVE[i] = 0. -/
def checkLive (s : State) (i : Fin 16) : Option Cause := if s.isAlive i then none else some .deadAccumulator

/-- The first fault found, in the order the tests are made: "the first `raise` reached wins" (R11, R124). -/
def firstFault : List (Option Cause) → Option Cause
  | [] => none
  | some c :: _ => some c
  | none :: rest => firstFault rest

/-! ## STATUS (R19, R79) -/

/-- A flag as the value 0 or 1 on a WMAX-bit path. -/
def flagWord (b : Bool) : Word := if b then 1 else 0

/-- ALIVE[i] by number; there is no slot from 16 on. -/
def State.aliveAt (s : State) (i : Nat) : Bool := if h : i < 16 then s.isAlive ⟨i, h⟩ else false

/-- VALID at bit 0 and FAULTS[1..5] at bits 1 to 5. -/
def faultImage (s : State) : Word :=
  flagWord s.valid
    ||| (flagWord s.faults.illegalCommand <<< 1)
    ||| (flagWord s.faults.invalidSpecification <<< 2)
    ||| (flagWord s.faults.notConfigured <<< 3)
    ||| (flagWord s.faults.badAccumulator <<< 4)
    ||| (flagWord s.faults.deadAccumulator <<< 5)

/-- The STATUS image: `for i in 0 .. NACC-1: s = s | (ALIVE[i] << (8 + i))` over the bits of `faultImage` (R79). -/
def statusImage (s : State) : Word :=
  (List.range s.cfg.nacc).foldl (fun w i => w ||| (flagWord (s.aliveAt i) <<< (8 + i))) (faultImage s)

end Sys2Proof.Machine
end

