-- ==== Sys2Proof/Machine/Ops.lean ====
section
/-! DEFINITION. The named operations of the block: the table memory, the accumulator file, the command port, the response
port, and the ONE operation by which every fault is taken (spec/00_scope.md rules R10, R11; spec/20_memory.md rule R30;
spec/60_exceptions.md rules R125, R126). -/

namespace Sys2Proof.Machine

/-! ## The table memory (R30) -/

/-- What an unlisted table entry reads as. The spec leaves the table unspecified and unobservable until the first
successful BUILD, which writes all 256 entries (R23, R27); 0 is a DESIGN CHOICE (log entry 7, unsafe). -/
def Memory.unlisted : Word := 0

/-- Read the entry with number `k`. -/
def Memory.readAt : List Cell → Nat → Word
  | [], _ => Memory.unlisted
  | (a, v) :: m, k => if k = a then v else Memory.readAt m k

/-- Write the entry with number `k`, keeping the canonical form: numbers strictly rising, and no entry listed that holds
what an unlisted one reads as. -/
def Memory.writeAt : List Cell → Nat → Word → List Cell
  | [], k, w => if w = Memory.unlisted then [] else [(k, w)]
  | (a, v) :: m, k, w =>
    if k < a then (if w = Memory.unlisted then (a, v) :: m else (k, w) :: (a, v) :: m)
    else if k = a then (if w = Memory.unlisted then m else (k, w) :: m)
    else (a, v) :: Memory.writeAt m k w

/-- The canonical form of the table: entry numbers strictly rising and below 256, no entry equal to an unlisted one. -/
abbrev Memory.wf (m : List Cell) : Prop :=
  m.Pairwise (fun a b => a.1 < b.1) ∧ ∀ c ∈ m, c.1 < 256 ∧ c.2 ≠ Memory.unlisted

/-- `MemRead(idx, 1)`: one whole entry; every 8-bit index exists, so there is no bounds fault (R10, R30). -/
def memRead (m : List Cell) (idx : Byte) : Word := Memory.readAt m idx.toNat

/-- `MemWrite(idx, 1, v)`: sets TABLE[idx] and changes no other entry (R10, R30). -/
def memWrite (m : List Cell) (idx : Byte) (v : Word) : List Cell := Memory.writeAt m idx.toNat v

/-- `for k in 0 .. 255: MemWrite(k, 1, entry(k))` (R90). It is irreducible so that no definitional check ever runs the 256
writes; its lemmas say what it does. -/
@[irreducible] def memFill (m : List Cell) (entry : Byte → Word) : List Cell :=
  (List.range 256).foldl (fun m k => memWrite m (BitVec.ofNat 8 k) (entry (BitVec.ofNat 8 k))) m

/-! ## The accumulator file (R20) -/

/-- `x[i]`. -/
def State.getX (s : State) (i : Fin 16) : Word := s.x[i.val]

/-- `x[i] <- v`. -/
def State.setX (s : State) (i : Fin 16) (v : Word) : State := { s with x := s.x.set i.val v i.isLt }

/-! ## The ports (R50, R51) -/

/-- The host presents a command, before anything it was going to present. -/
def State.present (s : State) (c : PortCmd) : State := { s with input := c :: s.input }

/-- The block accepts the command `c`: it leaves the host's list, and its data operand is sampled with it. -/
def State.accept (s : State) (c : PortCmd) (rest : List PortCmd) : State := { s with input := rest, wdata := c.wdata }

/-- The response of a command that completes: `resp(0, rdata, obytes)` (R11). -/
def State.respond (s : State) (rdata : Word) (obytes : List Byte) : State :=
  { s with responses := s.responses ++ [{ status := 0, rdata := rdata, obytes := obytes }] }

/-! ## Taking a fault (R125)

There is no return beside it: no handler is entered, nothing is saved, and the next command the host presents is executed
normally (R126). -/

/-- `raise c`: `FAULTS[c] <- 1` is the only write to the state of the block, and the response is `resp(c, 0, [])`. -/
def State.takeFault (s : State) (c : Cause) : State :=
  { s with
    faults := s.faults.raise c
    responses := s.responses ++ [{ status := c.code, rdata := 0, obytes := [] }] }

/-- A command whose tests are `checks`, in order: the first fault found is taken and squashes the command; with none,
the command has its effect (R11, R109, R125). -/
def checked (checks : List (Option Cause)) (effect : State → State) (s : State) : Host.Outcome State Fault Refusal :=
  match firstFault checks with
  | some c => .next (s.takeFault c)
  | none => .next (effect s)

end Sys2Proof.Machine
end

