-- ==== Sys2Proof/Machine/Operands.lean ====
section
/-! DEFINITION. The operand and result forms that are more than a field of the word: byte lanes of `wdata`, digest bytes
and hexadecimal characters (spec/20_memory.md rules R35, R36; spec/43_incremental_engine.md rules R107, R108). -/

namespace Sys2Proof.Machine

/-- Lane k of `wdata`: `wdata[8k+7:8k]`, lane 0 the least significant byte and the earliest in the message (R36). -/
def lane (v : Word) (k : Nat) : Byte := v.extractLsb' (8 * k) 8

/-- A message byte on a WMAX-bit path (`zext`, R9). -/
def byteWord (b : Byte) : Word := b.setWidth 64

/-- `v & 0xFF` as a byte. -/
def lowByteOf (v : Word) : Byte := v.setWidth 8

/-- The value `v` of `w` bits as `w/8` bytes, most significant byte first:
`obytes[k] = (v >> (w - 8*(k+1))) & 0xFF` (R35, R107). -/
def digestBytes (v : Word) (w : Nat) : List Byte :=
  (List.range (w / 8)).map fun k => lowByteOf (v >>> (w - 8 * (k + 1)))

/-- The character code of one hexadecimal digit, upper case (R108; the codes are the spec's G1). -/
def hexch (t : Nibble) : Byte := if t < 10 then 0x30 + t.setWidth 8 else 0x41 + (t.setWidth 8 - 10)

/-- Two characters a byte, high nibble first (R108). -/
def hexBytes (d : List Byte) : List Byte :=
  d.flatMap fun b => [hexch (b.extractLsb' 4 4), hexch (b.extractLsb' 0 4)]

end Sys2Proof.Machine
end

