-- ==== Sys2Proof/Machine/Units.lean ====
section
/-! DEFINITION. The pure functions of the block: validation and normalisation (spec/40_parameter_model.md rules R65,
R66), `bit_reflect_unit` and `polynomial_gf2_reduce` (spec/41_reflect_and_gf2_units.md rules R80 to R85), the table
entry (spec/42_table_generator.md rule R91) and the per-byte update (spec/43_incremental_engine.md rule R100).

The rules compute on naturals and truncate with `& mask(w)`; w ≤ 64 and every shift that is not truncated stays below
2^64 for the widths a BUILD admits, so 64-bit words give the same values (DEDUCED, log entry 12). -/

namespace Sys2Proof.Machine

/-- `mask(w) = 2^w - 1` (R9). -/
def mask (w : Nat) : Word := BitVec.ofNat 64 (2 ^ w - 1)

/-- W_ADMIT = {8, 16, ..., 64} (R6). -/
abbrev Admitted (w : Nat) : Prop := 8 ≤ w ∧ w ≤ 64 ∧ w % 8 = 0

/-- `valid_width(w)`: the only validity test of a specification (R65). -/
def validWidth (w : Word) : Bool := decide (Admitted w.toNat)

/-- `norm(v, w) = v & mask(w)` (R66). -/
def norm (v : Word) (w : Nat) : Word := v &&& mask w

/-- `reflect(v, n)`: bit i of the result is bit n-1-i of v for i < n, and 0 from n on (R80). -/
def reflect (v : Word) (n : Nat) : Word :=
  (List.range n).foldl (fun out i => if v.getLsbD i then out ||| ((1 : Word) <<< (n - 1 - i)) else out) 0

/-- One step of the long division, most significant bit first (R82). -/
def gf2StepMsb (p : Word) (w : Nat) (r : Word) : Word :=
  if r.getLsbD (w - 1) then ((r <<< 1) &&& mask w) ^^^ p else (r <<< 1) &&& mask w

/-- One step, least significant bit first (R83). -/
def gf2StepLsb (q : Word) (r : Word) : Word :=
  if r.getLsbD 0 then (r >>> 1) ^^^ q else r >>> 1

/-- Eight steps for one byte placed in the top byte of a w-bit register (R84). -/
def gf2Reduce8Msb (b : Byte) (p : Word) (w : Nat) : Word :=
  Nat.iterate (gf2StepMsb p w) 8 (byteWord b <<< (w - 8))

/-- Eight steps for one byte placed in the low byte of the register (R85). -/
def gf2Reduce8Lsb (b : Byte) (q : Word) : Word :=
  Nat.iterate (gf2StepLsb q) 8 (byteWord b)

/-- `tblentry(k)` under the active spec of `s`: what BUILD stores at TABLE[k] (R91). -/
def tblentry (s : State) (k : Byte) : Word :=
  if s.refl then gf2Reduce8Lsb k s.rpoly else gf2Reduce8Msb k s.poly s.width.toNat

/-- `upd1(reg, b)` under the active spec and table of `s` (R100). -/
def upd1 (s : State) (reg : Word) (b : Byte) : Word :=
  if s.refl then
    memRead s.table (lowByteOf (reg ^^^ byteWord b)) ^^^ (reg >>> 8)
  else
    memRead s.table (lowByteOf ((reg >>> (s.width.toNat - 8)) ^^^ byteWord b))
      ^^^ ((reg <<< 8) &&& mask s.width.toNat)

/-- `upd1` over lanes 0, 1, ..., n-1 of the data operand, lane 0 first (R36, R104). -/
def updLanes (s : State) (reg : Word) (n : Nat) : Word :=
  (List.range n).foldl (fun reg k => upd1 s reg (lane s.wdata k)) reg

/-- `outval(i) = x[i] ^ XOROUT`: computed fresh on every read, never stored (R105). -/
def outval (s : State) (i : Fin 16) : Word := s.getX i ^^^ s.xorout

end Sys2Proof.Machine
end

