-- ==== Sys2Proof/Machine/Engine.lean ====
section
/-! DEFINITION. The Incremental Engine: NEW, COPY, UPDB, UPDW, CRCVAL, DIGEST, HEXDIG (spec/43_incremental_engine.md
rules R100 to R109). A destination that is only written needs `check_idx`; a source, and a register that is read and
written, needs `check_live` as well (R109). -/

namespace Sys2Proof.Machine

/-- `NEW ad`: `x[rd] <- INIT`, as it is, with no reflection and no XOROUT; `ALIVE[rd] <- 1` (R101). -/
def execNew (rd : Fin 16) (s : State) : Host.Outcome State Fault Refusal :=
  checked [checkCfg s, checkIdx s rd] (fun s => ((s.setX rd s.init).setAlive rd).respond 0 []) s

/-- `COPY ad, as`: `x[rd] <- x[rs]`, `ALIVE[rd] <- 1`; rd is tested before rs (R102). -/
def execCopy (rd rs : Fin 16) (s : State) : Host.Outcome State Fault Refusal :=
  checked [checkCfg s, checkIdx s rd, checkIdx s rs, checkLive s rs]
    (fun s => ((s.setX rd (s.getX rs)).setAlive rd).respond 0 []) s

/-- `UPDB ad, imm8`: `x[rd] <- upd1(x[rd], imm8)` (R103). -/
def execUpdb (rd : Fin 16) (imm8 : Byte) (s : State) : Host.Outcome State Fault Refusal :=
  checked [checkCfg s, checkIdx s rd, checkLive s rd]
    (fun s => (s.setX rd (upd1 s (s.getX rd) imm8)).respond 0 []) s

/-- `UPDW ad, n, v`: `upd1` over the first n lanes of `wdata`, lane 0 first; the checks are made even for n = 0 (R104). -/
def execUpdw (rd : Fin 16) (n : Nat) (s : State) : Host.Outcome State Fault Refusal :=
  checked [checkCfg s, checkIdx s rd, checkLive s rd]
    (fun s => (s.setX rd (updLanes s (s.getX rd) n)).respond 0 []) s

/-- The three reads of an accumulator differ only in the data and the bytes they answer; none changes the state (R106 to
R108, R115). -/
def readAcc (rs : Fin 16) (rdata : Word) (obytes : List Byte) (s : State) : Host.Outcome State Fault Refusal :=
  checked [checkCfg s, checkIdx s rs, checkLive s rs] (fun s => s.respond rdata obytes) s

/-- `CRCVAL as`: the checksum as a number (R106). -/
def execCrcval (rs : Fin 16) (s : State) : Host.Outcome State Fault Refusal := readAcc rs (outval s rs) [] s

/-- `DIGEST as`: the checksum as WIDTH/8 bytes, most significant first (R107). -/
def execDigest (rs : Fin 16) (s : State) : Host.Outcome State Fault Refusal :=
  readAcc rs 0 (digestBytes (outval s rs) s.width.toNat) s

/-- `HEXDIG as`: the digest in hexadecimal characters (R108). -/
def execHexdig (rs : Fin 16) (s : State) : Host.Outcome State Fault Refusal :=
  readAcc rs 0 (hexBytes (digestBytes (outval s rs) s.width.toNat)) s

end Sys2Proof.Machine
end

