-- ==== Sys2Proof/Machine/ParamModel.lean ====
section
/-! DEFINITION. The Parameter Model: WRSPEC and RDSPEC (spec/40_parameter_model.md rules R67 to R79). WRSPEC writes one
staging register with the whole of `wdata`, unmasked and unvalidated, and faults in no state (R71). RDSPEC reads one
active register and changes no state; all but STATUS need VALID = 1 (R72). -/

namespace Sys2Proof.Machine

/-- `WRSPEC WIDTH`: `S_WIDTH <- wdata` (R67). -/
def execWrspecWidth (s : State) : Host.Outcome State Fault Refusal :=
  checked [] (fun s => { s with sWidth := s.wdata }.respond 0 []) s

/-- `WRSPEC POLY`: `S_POLY <- wdata` (R68). -/
def execWrspecPoly (s : State) : Host.Outcome State Fault Refusal :=
  checked [] (fun s => { s with sPoly := s.wdata }.respond 0 []) s

/-- `WRSPEC INIT`: `S_INIT <- wdata` (R69). -/
def execWrspecInit (s : State) : Host.Outcome State Fault Refusal :=
  checked [] (fun s => { s with sInit := s.wdata }.respond 0 []) s

/-- `WRSPEC XOROUT`: `S_XOROUT <- wdata` (R70). -/
def execWrspecXorout (s : State) : Host.Outcome State Fault Refusal :=
  checked [] (fun s => { s with sXorout := s.wdata }.respond 0 []) s

/-- Answer with one value of the active spec; NotConfigured while VALID = 0 (R72). -/
def readActive (v : Word) (s : State) : Host.Outcome State Fault Refusal :=
  checked [checkCfg s] (fun s => s.respond v []) s

/-- `RDSPEC WIDTH` (R73). -/
def execRdspecWidth (s : State) : Host.Outcome State Fault Refusal := readActive (s.width.setWidth 64) s

/-- `RDSPEC POLY` (R74). -/
def execRdspecPoly (s : State) : Host.Outcome State Fault Refusal := readActive s.poly s

/-- `RDSPEC INIT` (R75). -/
def execRdspecInit (s : State) : Host.Outcome State Fault Refusal := readActive s.init s

/-- `RDSPEC XOROUT` (R76). -/
def execRdspecXorout (s : State) : Host.Outcome State Fault Refusal := readActive s.xorout s

/-- `RDSPEC REFL` (R77). -/
def execRdspecRefl (s : State) : Host.Outcome State Fault Refusal := readActive (flagWord s.refl) s

/-- `RDSPEC RPOLY` (R78). -/
def execRdspecRpoly (s : State) : Host.Outcome State Fault Refusal := readActive s.rpoly s

/-- `RDSPEC STATUS`: never faults, and does not clear FAULTS (R79). -/
def execRdspecStatus (s : State) : Host.Outcome State Fault Refusal :=
  checked [] (fun s => s.respond (statusImage s) []) s

end Sys2Proof.Machine
end

