-- ==== Sys2Proof/Machine/TableGen.lean ====
section
/-! DEFINITION. The Table Builder: BUILD and RDTBL (spec/42_table_generator.md rules R90 to R97). -/

namespace Sys2Proof.Machine

/-- The test of BUILD: InvalidSpecification when S_WIDTH is outside W_ADMIT, before any write (R92). -/
def checkWidth (s : State) : Option Cause := if validWidth s.sWidth then none else some .invalidSpecification

/-- The commit of the Parameter Model: all fields of the active spec replaced together, POLY, INIT and XOROUT masked to
the new width, RPOLY computed from the new POLY for both values of REFL (R90, R17). -/
def commitSpec (r : Bool) (s : State) : State :=
  { s with
    width := s.sWidth.setWidth 7
    poly := norm s.sPoly s.sWidth.toNat
    init := norm s.sInit s.sWidth.toNat
    xorout := norm s.sXorout s.sWidth.toNat
    refl := r
    rpoly := reflect (norm s.sPoly s.sWidth.toNat) s.sWidth.toNat }

/-- The table fill, with the spec just committed (R90, R91). -/
def fillTable (s : State) : State := { s with table := memFill s.table (tblentry s) }

/-- `BUILD.N` (`r` false), `BUILD.R` (`r` true): validate, commit, build the table, discard every accumulator, set VALID,
all in one step (R90). The staging registers stay; the accumulators' values stay unread and unwritten (log entry 9). -/
def execBuild (r : Bool) (s : State) : Host.Outcome State Fault Refusal :=
  checked [checkWidth s] (fun s => { (fillTable (commitSpec r s)).clearAlive with valid := true }.respond 0 []) s

/-- `RDTBL idx`: one table entry; NotConfigured while VALID = 0 (R97). -/
def execRdtbl (idx : Byte) (s : State) : Host.Outcome State Fault Refusal :=
  checked [checkCfg s] (fun s => s.respond (memRead s.table idx) []) s

end Sys2Proof.Machine
end

