-- ==== Sys2Proof/Machine/Dispatch.lean ====
section
/-! DEFINITION. One arm per command, each one direct call of its meaning. -/

namespace Sys2Proof.Machine

def exec (i : Instr) (s : State) : Host.Outcome State Fault Refusal :=
  match i with
  | .wrspecWidth => Sys2Proof.Machine.execWrspecWidth s
  | .wrspecPoly => Sys2Proof.Machine.execWrspecPoly s
  | .wrspecInit => Sys2Proof.Machine.execWrspecInit s
  | .wrspecXorout => Sys2Proof.Machine.execWrspecXorout s
  | .build r => Sys2Proof.Machine.execBuild r s
  | .rdspecWidth => Sys2Proof.Machine.execRdspecWidth s
  | .rdspecPoly => Sys2Proof.Machine.execRdspecPoly s
  | .rdspecInit => Sys2Proof.Machine.execRdspecInit s
  | .rdspecXorout => Sys2Proof.Machine.execRdspecXorout s
  | .rdspecRefl => Sys2Proof.Machine.execRdspecRefl s
  | .rdspecRpoly => Sys2Proof.Machine.execRdspecRpoly s
  | .rdspecStatus => Sys2Proof.Machine.execRdspecStatus s
  | .rdtbl idx => Sys2Proof.Machine.execRdtbl idx s
  | .new rd => Sys2Proof.Machine.execNew rd s
  | .copy rd rs => Sys2Proof.Machine.execCopy rd rs s
  | .updb rd imm8 => Sys2Proof.Machine.execUpdb rd imm8 s
  | .updw rd n => Sys2Proof.Machine.execUpdw rd n s
  | .crcval rs => Sys2Proof.Machine.execCrcval rs s
  | .digest rs => Sys2Proof.Machine.execDigest rs s
  | .hexdig rs => Sys2Proof.Machine.execHexdig rs s

end Sys2Proof.Machine
end

