-- ==== Sys2Proof/Machine/Step.lean ====
section
/-! DEFINITION. One step: the block accepts the next command the host presents, decodes it, runs it to completion and
answers (spec/00_scope.md rules R11, R12; spec/30_encoding.md rules R50, R55). There is no program counter and no fetch
(spec/10_state.md rule R21): where other machines fetch, this one takes the head of the host's list. -/

namespace Sys2Proof.Machine

/-- One step. A word that is no command raises IllegalCommand (R49). With nothing presented the block holds its state:
"between commands the block simply holds its state" (R133; DEDUCED, log entry 2). -/
def step (s : State) : Host.Outcome State Fault Refusal :=
  match s.input with
  | [] => .next s
  | c :: rest =>
    match decode c.cmd with
    | .ok i => exec i (s.accept c rest)
    | .error _ => .next ((s.accept c rest).takeFault .illegalCommand)

/-- `s` with the word `w` presented next, with a data operand of zeros, before whatever the host was going to present
(log entry 1). -/
def State.withFetchWord (s : State) (nbits w : Nat) : State :=
  s.present { cmd := BitVec.ofNat 16 (w % 2 ^ nbits), wdata := 0 }

end Sys2Proof.Machine
end

