-- ==== Sys2Proof/Safety.lean ====
section
/-! DEFINITION. What the spec promises of every state after reset and after every command (spec/10_state.md rule R24),
and what counts as a fault-free run (spec/60_exceptions.md rule R125; spec/70_reset_and_hazards.md rule R146). -/

namespace Sys2Proof.Machine

/-- What holds of the active spec and the table while VALID = 1 (R24 (a), R16, R17, R23). -/
structure SpecInv (s : State) : Prop where
  width_admitted : Admitted s.width.toNat
  poly_lt : s.poly.toNat < 2 ^ s.width.toNat
  init_lt : s.init.toNat < 2 ^ s.width.toNat
  xorout_lt : s.xorout.toNat < 2 ^ s.width.toNat
  rpoly_eq : s.rpoly = reflect s.poly s.width.toNat
  rpoly_lt : s.rpoly.toNat < 2 ^ s.width.toNat
  table_eq : ∀ k : Byte, memRead s.table k = tblentry s k
  table_lt : ∀ k : Byte, (memRead s.table k).toNat < 2 ^ s.width.toNat

/-- The invariants (a), (b), (c) of rule R24, with what the model's own forms add: the parameter is in its range, only
accumulators below NACC are live, and the table is in canonical form. -/
structure State.Inv (s : State) : Prop where
  cfg_wf : s.cfg.wf
  table_wf : Memory.wf s.table
  spec : s.valid = true → SpecInv s
  alive_valid : ∀ i, s.isAlive i = true → s.valid = true
  alive_exists : ∀ i, s.isAlive i = true → i.val < s.cfg.nacc
  x_lt : ∀ i, s.isAlive i = true → (s.getX i).toNat < 2 ^ s.width.toNat

/-- No command has faulted since reset: STATUS bits [5:1] are 0 (R125). -/
def State.FaultFree (s : State) : Prop := ∀ c, s.faults.get c = false

/-- Every response so far has status 0 (R125, R146). -/
def State.AllAccepted (s : State) : Prop := ∀ r ∈ s.responses, r.status = 0

/-- "every status is 0 (equivalently final FAULTS = 0)" (R146): the two readings of a clean run agree. -/
def State.RecordAgrees (s : State) : Prop := s.FaultFree ↔ s.AllAccepted

/-- A safe run, in the terms a claim about results takes as its premise. -/
def State.Safe (s : State) : Prop := s.Inv ∧ s.FaultFree

end Sys2Proof.Machine
end

