-- ==== Sys2Proof/Certificates/Slice0/Obligations.lean ====
section
/-! DEFINITION. The statements for the provers. Where a rule computes on natural numbers, its formula is written here on
naturals, independently of the words the model computes with. -/

open Sys2Proof Sys2Proof.Machine

namespace Sys2Proof.Spec

/-- The state `s` after one more response `resp(0, v, bs)`: nothing else differs (R11). -/
def answered (s : State) (v : Word) (bs : List Byte) : State :=
  { s with responses := s.responses ++ [{ status := 0, rdata := v, obytes := bs }] }

/-- The state `s` after the fault with the sticky record `f` and the code `c`: nothing else differs (R125). -/
def faulted (s : State) (f : Faults) (c : Nibble) : State :=
  { s with faults := f, responses := s.responses ++ [{ status := c, rdata := 0, obytes := [] }] }

/-- The commands that need the active spec or the table: the "raised by" column of NotConfigured (R121). -/
def needsSpec : Instr → Bool
  | .wrspecWidth | .wrspecPoly | .wrspecInit | .wrspecXorout | .build _ | .rdspecStatus => false
  | .rdspecWidth | .rdspecPoly | .rdspecInit | .rdspecXorout | .rdspecRefl | .rdspecRpoly | .rdtbl _ => true
  | .new _ | .copy _ _ | .updb _ _ | .updw _ _ | .crcval _ | .digest _ | .hexdig _ => true

/-- The accumulator index fields a command uses (BadAccumulator, R122). -/
def usedIndices : Instr → List (Fin 16)
  | .new rd => [rd]
  | .copy rd rs => [rd, rs]
  | .updb rd _ => [rd]
  | .updw rd _ => [rd]
  | .crcval rs => [rs]
  | .digest rs => [rs]
  | .hexdig rs => [rs]
  | .wrspecWidth | .wrspecPoly | .wrspecInit | .wrspecXorout | .build _ => []
  | .rdspecWidth | .rdspecPoly | .rdspecInit | .rdspecXorout | .rdspecRefl | .rdspecRpoly | .rdspecStatus => []
  | .rdtbl _ => []

/-- The accumulators a command reads (DeadAccumulator, R122). -/
def readIndices : Instr → List (Fin 16)
  | .copy _ rs => [rs]
  | .updb rd _ => [rd]
  | .updw rd _ => [rd]
  | .crcval rs => [rs]
  | .digest rs => [rs]
  | .hexdig rs => [rs]
  | .new _ => []
  | .wrspecWidth | .wrspecPoly | .wrspecInit | .wrspecXorout | .build _ => []
  | .rdspecWidth | .rdspecPoly | .rdspecInit | .rdspecXorout | .rdspecRefl | .rdspecRpoly | .rdspecStatus => []
  | .rdtbl _ => []

/-- The accumulator a command writes: its rd field (R112). -/
def destination : Instr → Option (Fin 16)
  | .new rd => some rd
  | .copy rd _ => some rd
  | .updb rd _ => some rd
  | .updw rd _ => some rd
  | .crcval _ | .digest _ | .hexdig _ | .rdtbl _ | .build _ => none
  | .wrspecWidth | .wrspecPoly | .wrspecInit | .wrspecXorout => none
  | .rdspecWidth | .rdspecPoly | .rdspecInit | .rdspecXorout | .rdspecRefl | .rdspecRpoly | .rdspecStatus => none

/-- The commands that only read: RDSPEC, RDTBL, CRCVAL, DIGEST, HEXDIG (R39, R72, R97, R115). -/
def readsOnly : Instr → Bool
  | .rdspecWidth | .rdspecPoly | .rdspecInit | .rdspecXorout | .rdspecRefl | .rdspecRpoly | .rdspecStatus => true
  | .rdtbl _ | .crcval _ | .digest _ | .hexdig _ => true
  | .wrspecWidth | .wrspecPoly | .wrspecInit | .wrspecXorout | .build _ => false
  | .new _ | .copy _ _ | .updb _ _ | .updw _ _ => false

/-- The commands that use `wdata` (R50). -/
def usesWdata : Instr → Bool
  | .wrspecWidth | .wrspecPoly | .wrspecInit | .wrspecXorout | .updw _ _ => true
  | .rdspecWidth | .rdspecPoly | .rdspecInit | .rdspecXorout | .rdspecRefl | .rdspecRpoly | .rdspecStatus => false
  | .build _ | .rdtbl _ | .new _ | .copy _ _ | .updb _ _ | .crcval _ | .digest _ | .hexdig _ => false

/-- Every accumulator index field `i` uses names an accumulator, and every accumulator it reads is live: with VALID = 1
these are the conditions under which no admission check of R109 fails. -/
def indicesReady (s : State) (i : Instr) : Prop :=
  (∀ j ∈ usedIndices i, j.val < s.cfg.nacc) ∧ ∀ j ∈ readIndices i, s.isAlive j = true

/-- R109 with R125: what a command of the engine answers when an admission check fails, the first failing check deciding:
no configuration, then an index that names no accumulator, then a read of a dead one. -/
def AdmissionChecked (i : Instr) (s : State) : Prop :=
  (s.valid = false → exec i s = .next (faulted s { s.faults with notConfigured := true } 3)) ∧
  (s.valid = true → (∃ j ∈ usedIndices i, s.cfg.nacc ≤ j.val) →
    exec i s = .next (faulted s { s.faults with badAccumulator := true } 4)) ∧
  (s.valid = true → (∀ j ∈ usedIndices i, j.val < s.cfg.nacc) → (∃ j ∈ readIndices i, s.isAlive j = false) →
    exec i s = .next (faulted s { s.faults with deadAccumulator := true } 5))

/-- R100 on naturals: `upd1(reg, b)` under the active spec and table of `s`. -/
def updNat (s : State) (reg b : Nat) : Nat :=
  if s.refl then
    (memRead s.table (BitVec.ofNat 8 ((reg ^^^ b) % 256))).toNat ^^^ (reg / 2 ^ 8)
  else
    (memRead s.table (BitVec.ofNat 8 ((reg / 2 ^ (s.width.toNat - 8) ^^^ b) % 256))).toNat
      ^^^ (reg * 2 ^ 8 % 2 ^ s.width.toNat)

/-- R36 on naturals: byte lane k of a data operand. -/
def laneNat (v k : Nat) : Nat := v / 2 ^ (8 * k) % 256

/-- R108 on naturals: the character code of a hexadecimal digit. -/
def hexchNat (t : Nat) : Nat := if t < 10 then 0x30 + t else 0x41 + (t - 10)

/-- The words rule R49 lists as illegal, by major opcode. -/
def illegalWord (c : Nat) : Prop :=
  c / 4096 = 0x0 ∨
  c / 4096 = 0x1 ∧ (4 ≤ c / 256 % 16 ∨ c % 256 ≠ 0) ∨
  c / 4096 = 0x2 ∧ c % 4096 / 2 ≠ 0 ∨
  c / 4096 = 0x3 ∧ (7 ≤ c / 256 % 16 ∨ c % 256 ≠ 0) ∨
  c / 4096 = 0x4 ∧ c / 256 % 16 ≠ 0 ∨
  c / 4096 = 0x5 ∧ c % 256 ≠ 0 ∨
  c / 4096 = 0x6 ∧ c % 16 ≠ 0 ∨
  c / 4096 = 0x8 ∧ (c / 16 % 16 ≠ 0 ∨ 9 ≤ c % 16) ∨
  (c / 4096 = 0x9 ∨ c / 4096 = 0xA ∨ c / 4096 = 0xB) ∧ (c / 256 % 16 ≠ 0 ∨ c % 16 ≠ 0) ∨
  c / 4096 = 0xC ∨ c / 4096 = 0xD ∨ c / 4096 = 0xE ∨ c / 4096 = 0xF

/-- The mask and match columns of the opcode map, row by row (R48). -/
def opcodeRows : List (CmdWord × CmdWord) :=
  [(0xFFFF, 0x1000), (0xFFFF, 0x1100), (0xFFFF, 0x1200), (0xFFFF, 0x1300), (0xFFFE, 0x2000),
   (0xFFFF, 0x3000), (0xFFFF, 0x3100), (0xFFFF, 0x3200), (0xFFFF, 0x3300), (0xFFFF, 0x3400),
   (0xFFFF, 0x3500), (0xFFFF, 0x3600)] ++
  [(0xFF00, 0x4000), (0xF0FF, 0x5000), (0xF00F, 0x6000), (0xF000, 0x7000), (0xF0F0, 0x8000),
   (0xFF0F, 0x9000), (0xFF0F, 0xA000), (0xFF0F, 0xB000)]

/-- A word matches a row: (c & mask) = match, with UPDW's extra condition n ≤ 8 (R48). -/
def matchesRow (c : CmdWord) (row : CmdWord × CmdWord) : Prop :=
  c &&& row.1 = row.2 ∧ (row.2 = 0x8000 → c.toNat % 16 ≤ 8)

/-- `f` is the value `v` read as a polynomial over GF(2): bit i is the coefficient of x^i (R86, glossary "Poly"). -/
def IsPoly (v : Word) (f : Polynomial (ZMod 2)) : Prop :=
  ∀ i, f.coeff i = if v.getLsbD i then 1 else 0

/-- One update command on an accumulator, as the host cuts a message: a byte, or n lanes of a data operand. -/
inductive Chunk where
  | byte (b : Byte) (unused : Word)
  | lanes (n : Nat) (v : Word)

/-- The chunk fits one command: n is at most 8 (R104). -/
def Chunk.fits : Chunk → Prop
  | .byte _ _ => True
  | .lanes n _ => n ≤ 8

/-- The message bytes a chunk presents, in order (R33, R36). -/
def Chunk.bytes : Chunk → List Byte
  | .byte b _ => [b]
  | .lanes n v => (List.range n).map fun k => BitVec.ofNat 8 (laneNat v.toNat k)

/-- What the host puts on the command port for a chunk of accumulator d: the words of R53. -/
def Chunk.onPort (d : Fin 16) : Chunk → PortCmd
  | .byte b v => { cmd := BitVec.ofNat 16 (0x7000 + 0x100 * d.val + b.toNat), wdata := v }
  | .lanes n v => { cmd := BitVec.ofNat 16 (0x8000 + 0x100 * d.val + n), wdata := v }

/-- Two states that differ at most in what the spec calls unobservable: the active spec and the table while VALID = 0, and
x[i] while ALIVE[i] = 0 (R27, U9, U10). -/
structure SameView (s t : State) : Prop where
  sWidth : s.sWidth = t.sWidth
  sPoly : s.sPoly = t.sPoly
  sInit : s.sInit = t.sInit
  sXorout : s.sXorout = t.sXorout
  valid : s.valid = t.valid
  alive : s.alive = t.alive
  faults : s.faults = t.faults
  cfg : s.cfg = t.cfg
  wdata : s.wdata = t.wdata
  input : s.input = t.input
  responses : s.responses = t.responses
  left_wf : Memory.wf s.table
  right_wf : Memory.wf t.table
  spec : s.valid = true → s.width = t.width ∧ s.poly = t.poly ∧ s.refl = t.refl ∧ s.init = t.init ∧
    s.xorout = t.xorout ∧ s.rpoly = t.rpoly ∧ ∀ k, memRead s.table k = memRead t.table k
  x : ∀ i, s.isAlive i = true → s.getX i = t.getX i

end Sys2Proof.Spec

open Sys2Proof.Spec

/-! ## Encoding -/

/-- R48, R55 and the formats of R46: the decoder reads back every well-formed command, every operand at every value. -/
def Obligations.DecodeReadsBackEncode : Prop := ∀ i : Instr, i.wf = true → decode (encode i) = .ok i

/-- A word that decodes is the word of the command it decodes to, and that command is well-formed: each word has one
meaning, and no bit of a legal word is ignored. -/
def Obligations.EncodeRestoresLegalWord : Prop :=
  ∀ (c : CmdWord) (i : Instr), decode c = .ok i → i.wf = true ∧ encode i = c

/-- R53: the word of every command, as the assembler table computes it on naturals. -/
def Obligations.WordsOfTheAssemblerTable : Prop :=
  (encode .wrspecWidth).toNat = 0x1000 ∧ (encode .wrspecPoly).toNat = 0x1100 ∧
  (encode .wrspecInit).toNat = 0x1200 ∧ (encode .wrspecXorout).toNat = 0x1300 ∧
  (∀ r, (encode (.build r)).toNat = 0x2000 + r.toNat) ∧
  (encode .rdspecWidth).toNat = 0x3000 ∧ (encode .rdspecPoly).toNat = 0x3100 ∧
  (encode .rdspecInit).toNat = 0x3200 ∧ (encode .rdspecXorout).toNat = 0x3300 ∧
  (encode .rdspecRefl).toNat = 0x3400 ∧ (encode .rdspecRpoly).toNat = 0x3500 ∧
  (encode .rdspecStatus).toNat = 0x3600 ∧
  (∀ idx, (encode (.rdtbl idx)).toNat = 0x4000 + idx.toNat) ∧
  (∀ d, (encode (.new d)).toNat = 0x5000 + 0x100 * d.val) ∧
  (∀ d a, (encode (.copy d a)).toNat = 0x6000 + 0x100 * d.val + 0x10 * a.val) ∧
  (∀ d b, (encode (.updb d b)).toNat = 0x7000 + 0x100 * d.val + b.toNat) ∧
  (∀ d n, n ≤ 8 → (encode (.updw d n)).toNat = 0x8000 + 0x100 * d.val + n) ∧
  (∀ a, (encode (.crcval a)).toNat = 0x9000 + 0x10 * a.val) ∧
  (∀ a, (encode (.digest a)).toNat = 0xA000 + 0x10 * a.val) ∧
  ∀ a, (encode (.hexdig a)).toNat = 0xB000 + 0x10 * a.val

/-- R48: the twenty rows of mask and match are pairwise disjoint (with UPDW's n ≤ 8); R55: a word decodes to the row it
matches, and to a command exactly when it matches one. -/
def Obligations.OpcodeMapDecidesDecoding : Prop :=
  (∀ (c : CmdWord) (a b : Fin opcodeRows.length),
    matchesRow c (opcodeRows.get a) → matchesRow c (opcodeRows.get b) → a = b) ∧
  (∀ c : CmdWord, (∃ i, decode c = .ok i) ↔ ∃ row ∈ opcodeRows, matchesRow c row) ∧
  (∀ (c : CmdWord) (i : Instr), decode c = .ok i →
    (i.mask, i.matchBits) ∈ opcodeRows ∧ matchesRow c (i.mask, i.matchBits))

/-- R47, R55: words written out from the formats, one of every row and some illegal ones (95_test_vectors.md 2.7). -/
def Obligations.SampleWordsDecode : Prop :=
  decode 0b0001000000000000 = .ok .wrspecWidth ∧ decode 0b0001000100000000 = .ok .wrspecPoly ∧
  decode 0b0001001000000000 = .ok .wrspecInit ∧ decode 0b0001001100000000 = .ok .wrspecXorout ∧
  decode 0b0010000000000000 = .ok (.build false) ∧ decode 0b0010000000000001 = .ok (.build true) ∧
  decode 0b0011000000000000 = .ok .rdspecWidth ∧ decode 0b0011000100000000 = .ok .rdspecPoly ∧
  decode 0b0011001000000000 = .ok .rdspecInit ∧ decode 0b0011001100000000 = .ok .rdspecXorout ∧
  decode 0b0011010000000000 = .ok .rdspecRefl ∧ decode 0b0011010100000000 = .ok .rdspecRpoly ∧
  decode 0b0011011000000000 = .ok .rdspecStatus ∧ decode 0b0100000011111111 = .ok (.rdtbl 0xFF) ∧
  decode 0b0101111100000000 = .ok (.new 15) ∧ decode 0b0110000110100000 = .ok (.copy 1 10) ∧
  decode 0b0111001000111001 = .ok (.updb 2 0x39) ∧ decode 0b1000001100001000 = .ok (.updw 3 8) ∧
  decode 0b1001000011110000 = .ok (.crcval 15) ∧ decode 0b1010000000110000 = .ok (.digest 3) ∧
  decode 0b1011000000100000 = .ok (.hexdig 2) ∧ decode 0x8009 = .error .countAboveEight ∧
  decode 0x9100 = .error .nonzeroMbz ∧ decode 0x3700 = .error .reservedSelector ∧
  decode 0xC123 = .error .reservedOpcode

/-! ## The step -/

/-- R12, R50: the step runs the command the presented word decodes to, on the state in which that command has left the
host's list and its data operand is sampled. (The list and the sampled operand are the model's own, log entries 1, 3.) -/
def Obligations.StepRunsPresentedCommand : Prop :=
  ∀ (s : State) (c : PortCmd) (rest : List PortCmd) (i : Instr),
    s.input = c :: rest → decode c.cmd = .ok i →
    step s = exec i { s with input := rest, wdata := c.wdata }

/-- R49: the step raises IllegalCommand, code 1, exactly on the listed words, in every state and whatever `wdata` is; every
other word is a command. (That the command has left the host's list and its data operand is sampled is the model's own, log
entries 1 and 3; that the response is kept in a list, log entry 4.) -/
def Obligations.IllegalWordsRaiseIllegalCommand : Prop :=
  ∀ (s : State) (c : PortCmd) (rest : List PortCmd), s.input = c :: rest →
    (illegalWord c.cmd.toNat → step s = .next
      (faulted { s with input := rest, wdata := c.wdata } { s.faults with illegalCommand := true } 1)) ∧
    (¬ illegalWord c.cmd.toNat → ∃ i, decode c.cmd = .ok i)

/-- R133 (the model's reading, log entry 2): with nothing presented the block holds its state. And the model's interface
(log entry 1): a word given to `withFetchWord` is what the next step runs. -/
def Obligations.PresentedWordRunsNext : Prop :=
  (∀ s : State, s.input = [] → step s = .next s) ∧
  ∀ (s : State) (w : Nat) (i : Instr), decodeTableWord 16 w = some i →
    step (s.withFetchWord 16 w) = exec i { s with wdata := 0 }

/-- R144, R126: every command terminates, and no fault stops the block: any number of steps from any state answers a
state. -/
def Obligations.RunNeverStops : Prop := ∀ (k : Nat) (s : State), ∃ t, Host.Core.run core k s = .next t

/-- R11, R51: each accepted command yields exactly one response, appended to those before it; `rdata` is produced only by
RDSPEC, RDTBL and CRCVAL, `obytes` only by DIGEST and HEXDIG; every other command, and every faulting one, answers
`rdata = 0` and `obytes = []`; at most 16 bytes while the spec invariants hold. -/
def Obligations.OneResponsePerCommand : Prop :=
  ∀ (s : State) (c : PortCmd) (rest : List PortCmd), s.input = c :: rest →
    ∃ t r, step s = .next t ∧ t.input = rest ∧ t.responses = s.responses ++ [r] ∧
      (r.status ≠ 0 → r.rdata = 0 ∧ r.obytes = []) ∧
      (r.rdata ≠ 0 → ∃ i, decode c.cmd = .ok i ∧ readsOnly i = true ∧ ∀ rs, i ≠ .digest rs ∧ i ≠ .hexdig rs) ∧
      (r.obytes ≠ [] → ∃ rs, decode c.cmd = .ok (.digest rs) ∨ decode c.cmd = .ok (.hexdig rs)) ∧
      (s.Inv → r.obytes.length ≤ 16)

/-! ## The parameter model -/

/-- R67 to R70, R71: each WRSPEC, under its word, writes its staging register with the whole of `wdata`, in every state,
and nothing else; the response is `resp(0, 0, [])`. -/
def Obligations.WrspecWritesItsStagingRegister : Prop :=
  ∀ s : State,
    decode 0x1000 = .ok .wrspecWidth ∧ decode 0x1100 = .ok .wrspecPoly ∧
    decode 0x1200 = .ok .wrspecInit ∧ decode 0x1300 = .ok .wrspecXorout ∧
    exec .wrspecWidth s = .next (answered { s with sWidth := s.wdata } 0 []) ∧
    exec .wrspecPoly s = .next (answered { s with sPoly := s.wdata } 0 []) ∧
    exec .wrspecInit s = .next (answered { s with sInit := s.wdata } 0 []) ∧
    exec .wrspecXorout s = .next (answered { s with sXorout := s.wdata } 0 [])

/-- R73 to R78: each RDSPEC of sel 0 to 5, under its word, answers its active register on `rdata` and changes no state when
VALID = 1, and takes NotConfigured, code 3, when VALID = 0. While the spec invariants hold the width read is admitted, the
other values fit it, and RPOLY is POLY reflected. -/
def Obligations.RdspecReadsActiveSpec : Prop :=
  ∀ s : State,
    decode 0x3000 = .ok .rdspecWidth ∧ decode 0x3100 = .ok .rdspecPoly ∧ decode 0x3200 = .ok .rdspecInit ∧
    decode 0x3300 = .ok .rdspecXorout ∧ decode 0x3400 = .ok .rdspecRefl ∧ decode 0x3500 = .ok .rdspecRpoly ∧
    (s.Inv → s.valid = true → Admitted s.width.toNat ∧ s.poly.toNat < 2 ^ s.width.toNat ∧
      s.init.toNat < 2 ^ s.width.toNat ∧ s.xorout.toNat < 2 ^ s.width.toNat ∧
      ∀ i, s.rpoly.getLsbD i = (decide (i < s.width.toNat) && s.poly.getLsbD (s.width.toNat - 1 - i))) ∧
    (s.valid = true →
      exec .rdspecWidth s = .next (answered s (BitVec.ofNat 64 s.width.toNat) []) ∧
      exec .rdspecPoly s = .next (answered s s.poly []) ∧
      exec .rdspecInit s = .next (answered s s.init []) ∧
      exec .rdspecXorout s = .next (answered s s.xorout []) ∧
      exec .rdspecRefl s = .next (answered s (if s.refl then 1 else 0) []) ∧
      exec .rdspecRpoly s = .next (answered s s.rpoly [])) ∧
    (s.valid = false →
      ∀ i ∈ [Instr.rdspecWidth, .rdspecPoly, .rdspecInit, .rdspecXorout, .rdspecRefl, .rdspecRpoly],
        exec i s = .next (faulted s { s.faults with notConfigured := true } 3))

/-- R19, R79: RDSPEC.STATUS, word 0x3600, completes in every state, clears nothing, and answers the image whose every bit
is as the layout says. -/
def Obligations.StatusImageLayout : Prop :=
  ∀ s : State, s.cfg.wf → ∃ v : Word, decode 0x3600 = .ok .rdspecStatus ∧
    exec .rdspecStatus s = .next (answered s v []) ∧
    v.getLsbD 0 = s.valid ∧
    v.getLsbD 1 = s.faults.illegalCommand ∧ v.getLsbD 2 = s.faults.invalidSpecification ∧
    v.getLsbD 3 = s.faults.notConfigured ∧ v.getLsbD 4 = s.faults.badAccumulator ∧
    v.getLsbD 5 = s.faults.deadAccumulator ∧
    v.getLsbD 6 = false ∧ v.getLsbD 7 = false ∧
    (∀ i : Fin 16, v.getLsbD (8 + i.val) = (decide (i.val < s.cfg.nacc) && s.isAlive i)) ∧
    ∀ j, 24 ≤ j → v.getLsbD j = false

/-- R6, R65: the valid widths are exactly the eight of W_ADMIT, over all 64-bit values. R66: for a valid width, `norm`
clears every bit at position w and above, so POLY may be given with its top bit explicit. -/
def Obligations.WidthsAdmittedAndValuesMasked : Prop :=
  (∀ w : Word, validWidth w = true ↔ w.toNat ∈ [8, 16, 24, 32, 40, 48, 56, 64]) ∧
  (∀ (v : Word) (w : Nat), Admitted w → (norm v w).toNat = v.toNat % 2 ^ w) ∧
  norm 0x11021 16 = norm 0x1021 16

/-! ## The units -/

/-- R80: bit i of reflect(v, n) is bit n-1-i of v for i < n; bits n and above are 0, whatever v holds there. -/
def Obligations.ReflectReversesLowBits : Prop :=
  ∀ (v : Word) (n i : Nat), 1 ≤ n → n ≤ 64 →
    (reflect v n).getLsbD i = (decide (i < n) && v.getLsbD (n - 1 - i))

/-- R81 (a) to (e): range, involution, linearity, the two end bits, and shifts as mirror images (the right-shift law for
n-bit values, which every value of the block is). -/
def Obligations.ReflectLaws : Prop :=
  ∀ (v a b : Word) (n : Nat), 1 ≤ n → n ≤ 64 →
    (reflect v n).toNat < 2 ^ n ∧
    reflect (reflect v n) n = v &&& mask n ∧
    reflect (a ^^^ b) n = reflect a n ^^^ reflect b n ∧
    reflect 0 n = 0 ∧ reflect (mask n) n = mask n ∧
    (reflect 1 n).toNat = 2 ^ (n - 1) ∧ reflect (BitVec.ofNat 64 (2 ^ (n - 1))) n = 1 ∧
    (v.toNat < 2 ^ (n - 1) → reflect (v <<< 1) n = reflect v n >>> 1) ∧
    (v.toNat < 2 ^ n → reflect (v >>> 1) n = (reflect v n <<< 1) &&& mask n)

/-- R82, R83: the two single steps, on naturals, with the truncation to w bits written out; of w-bit operands both results
are below 2^w. -/
def Obligations.DivisionStepsOnNaturals : Prop :=
  ∀ (w : Nat) (r p q : Word), Admitted w →
    (gf2StepMsb p w r).toNat =
      (if r.toNat.testBit (w - 1) then (r.toNat * 2 % 2 ^ w) ^^^ p.toNat else r.toNat * 2 % 2 ^ w) ∧
    (gf2StepLsb q r).toNat = (if r.toNat.testBit 0 then (r.toNat / 2) ^^^ q.toNat else r.toNat / 2) ∧
    (p.toNat < 2 ^ w → (gf2StepMsb p w r).toNat < 2 ^ w) ∧
    (q.toNat < 2 ^ w → r.toNat < 2 ^ w → (gf2StepLsb q r).toNat < 2 ^ w)

/-- R87: the steps and the eight-step units are linear over GF(2) in both bit orders, map 0 to 0, and with a zero
polynomial push every byte out. -/
def Obligations.UnitsAreLinear : Prop :=
  ∀ (w : Nat) (p a b : Word) (k l : Byte), Admitted w →
    gf2StepMsb p w (a ^^^ b) = gf2StepMsb p w a ^^^ gf2StepMsb p w b ∧ gf2StepMsb p w 0 = 0 ∧
    gf2StepLsb p (a ^^^ b) = gf2StepLsb p a ^^^ gf2StepLsb p b ∧ gf2StepLsb p 0 = 0 ∧
    gf2Reduce8Msb (k ^^^ l) p w = gf2Reduce8Msb k p w ^^^ gf2Reduce8Msb l p w ∧
    gf2Reduce8Lsb (k ^^^ l) p = gf2Reduce8Lsb k p ^^^ gf2Reduce8Lsb l p ∧
    gf2Reduce8Msb k 0 w = 0 ∧ gf2Reduce8Lsb k 0 = 0

/-- R88: the reflected table is the non-reflected one with every index reversed over 8 bits and every entry over w. -/
def Obligations.ReflectedTableIsMirrorImage : Prop :=
  ∀ (w : Nat) (p : Word) (b : Byte), Admitted w → p.toNat < 2 ^ w →
    gf2Reduce8Lsb b (reflect p w) =
      reflect (gf2Reduce8Msb ((reflect (byteWord b) 8).setWidth 8) p w) w

/-- R86: with G(x) = x^w + p(x), one step of a w-bit register is x·r(x) mod G(x), and the eight-step unit of a byte is
(b(x)·x^w) mod G(x): the table entry is a remainder of polynomial division. -/
def Obligations.TableEntryIsPolynomialRemainder : Prop :=
  ∀ (w : Nat) (p r : Word) (b : Byte) (g f β : Polynomial (ZMod 2)),
    Admitted w → p.toNat < 2 ^ w → r.toNat < 2 ^ w →
    IsPoly p g → IsPoly r f → IsPoly (byteWord b) β →
    IsPoly (gf2StepMsb p w r) (Polynomial.modByMonic (Polynomial.X * f) (Polynomial.X ^ w + g)) ∧
    IsPoly (gf2Reduce8Msb b p w) (Polynomial.modByMonic (β * Polynomial.X ^ w) (Polynomial.X ^ w + g))

/-! ## The table generator -/

/-- R90, R92: BUILD (words 0x2000 and 0x2001) with a valid staged width completes from every state: all fields of the
active spec are replaced together, POLY, INIT, XOROUT masked to the width, RPOLY is the new POLY reflected, every
accumulator is discarded, VALID is set, every table entry is the division unit's result, and nothing else changes (the
staging registers, the accumulators' registers, FAULTS). With any other staged width it raises InvalidSpecification, code
2, and changes nothing but FAULTS[2]. (That the accumulators' registers stay is the model's choice, log entry 9; that all
sixteen ALIVE slots are cleared, also those from NACC on, log entry 8; the canonical form of the table, log entry 7.) -/
def Obligations.BuildCommitsSpecAndFillsTable : Prop :=
  ∀ (r : Bool) (s : State), Memory.wf s.table → (encode (.build r)).toNat = 0x2000 + r.toNat ∧
    (s.sWidth.toNat ∉ [8, 16, 24, 32, 40, 48, 56, 64] →
      exec (.build r) s = .next (faulted s { s.faults with invalidSpecification := true } 2)) ∧
    (s.sWidth.toNat ∈ [8, 16, 24, 32, 40, 48, 56, 64] →
      ∃ (w : BitVec 7) (p ini xo rp : Word) (tbl : List Cell),
        exec (.build r) s = .next (answered
          { s with width := w, poly := p, refl := r, init := ini, xorout := xo, rpoly := rp, valid := true,
                   alive := Vector.replicate 16 false, table := tbl } 0 []) ∧
        w.toNat = s.sWidth.toNat ∧
        p.toNat = s.sPoly.toNat % 2 ^ s.sWidth.toNat ∧
        ini.toNat = s.sInit.toNat % 2 ^ s.sWidth.toNat ∧
        xo.toNat = s.sXorout.toNat % 2 ^ s.sWidth.toNat ∧
        (∀ i, rp.getLsbD i = (decide (i < s.sWidth.toNat) && p.getLsbD (s.sWidth.toNat - 1 - i))) ∧
        Memory.wf tbl ∧
        ∀ k : Byte, memRead tbl k = if r then gf2Reduce8Lsb k rp else gf2Reduce8Msb k p w.toNat)

/-- R91, as derived there: of a built table, entry 0 is 0, entries add as the indices do, entry 1 is POLY when REFL = 0,
entry 0x80 is RPOLY when REFL = 1. -/
def Obligations.BuiltTableEntries : Prop :=
  ∀ (s : State) (a b : Byte), SpecInv s →
    memRead s.table 0 = 0 ∧
    memRead s.table (a ^^^ b) = memRead s.table a ^^^ memRead s.table b ∧
    (s.refl = false → memRead s.table 1 = s.poly) ∧
    (s.refl = true → memRead s.table 0x80 = s.rpoly)

/-- R97: RDTBL, word 0x4000 + idx, answers the entry at idx and changes no state; NotConfigured, code 3, while VALID = 0.
While the spec invariants hold the entry is the one the active spec gives idx, below 2^WIDTH, and entry 0 is 0. -/
def Obligations.RdtblReadsOneEntry : Prop :=
  ∀ (idx : Byte) (s : State), (encode (.rdtbl idx)).toNat = 0x4000 + idx.toNat ∧
    (s.Inv → s.valid = true → memRead s.table idx = tblentry s idx ∧
      (memRead s.table idx).toNat < 2 ^ s.width.toNat ∧ memRead s.table 0 = 0) ∧
    (s.valid = true → exec (.rdtbl idx) s = .next (answered s (memRead s.table idx) [])) ∧
    (s.valid = false → exec (.rdtbl idx) s = .next (faulted s { s.faults with notConfigured := true } 3))

/-- R30: MemWrite sets the entry it names, changes no other, and keeps the canonical form. -/
def Obligations.MemWriteSetsOneEntry : Prop :=
  ∀ (m : List Cell) (i : Byte) (v : Word), Memory.wf m →
    Memory.wf (memWrite m i v) ∧ memRead (memWrite m i v) i = v ∧
    ∀ j, j ≠ i → memRead (memWrite m i v) j = memRead m j

/-- R90 corner case (b): BUILD repeated with unchanged staging registers and the same r rewrites the spec and the table
with the same values; only the response is new. (That the accumulators' registers stay is the model's choice, log entry
9.) -/
def Obligations.RebuildChangesNothing : Prop :=
  ∀ (r : Bool) (s t : State), Memory.wf s.table → validWidth s.sWidth = true → exec (.build r) s = .next t →
    exec (.build r) t = .next (answered t 0 [])

/-- R90 corner case (e), R40 (b): after a successful BUILD no accumulator is live, so UPDB, UPDW, CRCVAL, DIGEST, HEXDIG
and a COPY from any existing accumulator raise DeadAccumulator, code 5. -/
def Obligations.BuildDiscardsAccumulators : Prop :=
  ∀ (r : Bool) (s t : State) (a d : Fin 16) (b : Byte) (n : Nat),
    validWidth s.sWidth = true → exec (.build r) s = .next t → a.val < s.cfg.nacc → d.val < s.cfg.nacc →
    ∀ i ∈ [Instr.updb a b, .updw a n, .crcval a, .digest a, .hexdig a, .copy d a],
      exec i t = .next (faulted t { t.faults with deadAccumulator := true } 5)

/-! ## The incremental engine -/

/-- R101: NEW, word 0x5000 + 0x100·d, with VALID = 1 and rd < NACC completes: x[rd] is INIT as it is, ALIVE[rd] is 1,
nothing else changes; otherwise the admission checks answer. -/
def Obligations.NewLoadsInit : Prop :=
  ∀ (rd : Fin 16) (s : State), (encode (.new rd)).toNat = 0x5000 + 0x100 * rd.val ∧
    AdmissionChecked (.new rd) s ∧
    (s.valid = true → rd.val < s.cfg.nacc →
      exec (.new rd) s = .next (answered
        { s with x := s.x.set rd.val s.init rd.isLt, alive := s.alive.set rd.val true rd.isLt } 0 []))

/-- R102: COPY, word 0x6000 + 0x100·d + 0x10·s, with VALID = 1, both indices below NACC and rs live completes: x[rd] is
x[rs], ALIVE[rd] is 1, nothing else changes; with rd = rs no state changes; otherwise the admission checks answer. -/
def Obligations.CopyDuplicatesAccumulator : Prop :=
  ∀ (rd rs : Fin 16) (s : State), (encode (.copy rd rs)).toNat = 0x6000 + 0x100 * rd.val + 0x10 * rs.val ∧
    AdmissionChecked (.copy rd rs) s ∧
    (s.valid = true → rd.val < s.cfg.nacc → rs.val < s.cfg.nacc → s.isAlive rs = true →
      exec (.copy rd rs) s = .next (answered
        { s with x := s.x.set rd.val (s.getX rs) rd.isLt, alive := s.alive.set rd.val true rd.isLt } 0 []) ∧
      (rd = rs → exec (.copy rd rs) s = .next (answered s 0 [])))

/-- R100, R103: UPDB, word 0x7000 + 0x100·d + imm8, with VALID = 1 and rd an existing live accumulator completes: x[rd]
becomes `upd1(x[rd], imm8)` (for a width BUILD admits), nothing else changes; otherwise the admission checks answer. -/
def Obligations.UpdbProcessesOneByte : Prop :=
  ∀ (rd : Fin 16) (b : Byte) (s : State), (encode (.updb rd b)).toNat = 0x7000 + 0x100 * rd.val + b.toNat ∧
    AdmissionChecked (.updb rd b) s ∧
    (s.valid = true → rd.val < s.cfg.nacc → s.isAlive rd = true →
      ∃ v : Word, exec (.updb rd b) s = .next (answered { s with x := s.x.set rd.val v rd.isLt } 0 []) ∧
        (Admitted s.width.toNat → v.toNat = updNat s (s.getX rd).toNat b.toNat))

/-- R36, R104: UPDW, word 0x8000 + 0x100·d + n, with n ≤ 8 completes under the same conditions: x[rd] becomes `upd1`
folded over byte lanes 0 to n-1 of `wdata`, lane 0 first, nothing else changes; with n = 0 no state changes; the admission
checks are made even for n = 0. -/
def Obligations.UpdwProcessesLanesInOrder : Prop :=
  ∀ (rd : Fin 16) (n : Nat) (s : State), n ≤ 8 → (encode (.updw rd n)).toNat = 0x8000 + 0x100 * rd.val + n ∧
    AdmissionChecked (.updw rd n) s ∧
    (s.valid = true → rd.val < s.cfg.nacc → s.isAlive rd = true →
      (∃ v : Word, exec (.updw rd n) s = .next (answered { s with x := s.x.set rd.val v rd.isLt } 0 []) ∧
        (Admitted s.width.toNat → v.toNat =
          (List.range n).foldl (fun reg k => updNat s reg (laneNat s.wdata.toNat k)) (s.getX rd).toNat)) ∧
      (n = 0 → exec (.updw rd n) s = .next (answered s 0 [])))

/-- R106: CRCVAL, word 0x9000 + 0x10·s, with VALID = 1 and rs an existing live accumulator answers x[rs] ^ XOROUT and
changes no state; otherwise the admission checks answer. While the spec invariants hold the value is below 2^WIDTH. -/
def Obligations.CrcvalAppliesXoroutAtRead : Prop :=
  ∀ (rs : Fin 16) (s : State), (encode (.crcval rs)).toNat = 0x9000 + 0x10 * rs.val ∧
    AdmissionChecked (.crcval rs) s ∧
    (s.valid = true → rs.val < s.cfg.nacc → s.isAlive rs = true →
      exec (.crcval rs) s = .next (answered s (s.getX rs ^^^ s.xorout) [])) ∧
    (s.Inv → s.isAlive rs = true → (s.getX rs ^^^ s.xorout).toNat < 2 ^ s.width.toNat)

/-- R35, R107: DIGEST, word 0xA000 + 0x10·s, under the same conditions answers WIDTH/8 bytes, byte k being
`(v >> (WIDTH - 8*(k+1))) & 0xFF` of v = x[rs] ^ XOROUT, for both values of REFL, and changes no state; otherwise the
admission checks answer. -/
def Obligations.DigestIsBigEndian : Prop :=
  ∀ (rs : Fin 16) (s : State), (encode (.digest rs)).toNat = 0xA000 + 0x10 * rs.val ∧
    AdmissionChecked (.digest rs) s ∧
    (s.valid = true → rs.val < s.cfg.nacc → s.isAlive rs = true →
      ∃ bs : List Byte, exec (.digest rs) s = .next (answered s 0 bs) ∧ bs.length = s.width.toNat / 8 ∧
        ∀ k (h : k < bs.length), (bs.get ⟨k, h⟩).toNat =
          (s.getX rs ^^^ s.xorout).toNat / 2 ^ (s.width.toNat - 8 * (k + 1)) % 256)

/-- 95_test_vectors.md W3: the digest's bytes, put together most significant first, are the value CRCVAL answers. -/
def Obligations.DigestPacksTheCrcValue : Prop :=
  ∀ (rs : Fin 16) (s : State), s.Inv → s.isAlive rs = true →
    ∃ (v : Word) (bs : List Byte), exec (.crcval rs) s = .next (answered s v []) ∧
      exec (.digest rs) s = .next (answered s 0 bs) ∧
      bs.foldl (fun acc b => acc * 256 + b.toNat) 0 = v.toNat

/-- R108 (the character codes are the spec's G1, general knowledge): HEXDIG, word 0xB000 + 0x10·s, answers two characters
for each digest byte, high nibble first, upper case, and changes no state; otherwise the admission checks answer. -/
def Obligations.HexdigIsUppercaseDigest : Prop :=
  ∀ (rs : Fin 16) (s : State), (encode (.hexdig rs)).toNat = 0xB000 + 0x10 * rs.val ∧
    AdmissionChecked (.hexdig rs) s ∧
    (s.valid = true → rs.val < s.cfg.nacc → s.isAlive rs = true →
      ∃ ds hs : List Byte, exec (.digest rs) s = .next (answered s 0 ds) ∧
        exec (.hexdig rs) s = .next (answered s 0 hs) ∧
        hs.map BitVec.toNat = ds.flatMap fun d => [hexchNat (d.toNat / 16), hexchNat (d.toNat % 16)])

/-- R114: table-driven computation equals the bit-serial division, for every active spec, register value and byte. -/
def Obligations.TableUpdateEqualsBitSerialDivision : Prop :=
  ∀ (s : State) (reg : Word) (b : Byte), SpecInv s → reg.toNat < 2 ^ s.width.toNat →
    (s.refl = false →
      upd1 s reg b = Nat.iterate (gf2StepMsb s.poly s.width.toNat) 8 (reg ^^^ (byteWord b <<< (s.width.toNat - 8)))) ∧
    (s.refl = true → upd1 s reg b = Nat.iterate (gf2StepLsb s.rpoly) 8 (reg ^^^ byteWord b))

/-- R110: any sequence of UPDB and UPDW commands on accumulator d that presents, in order, the bytes of a message leaves
x[d] at `run` of the whole message, however the message is cut (UPDW with n = 0 anywhere): one response of status 0 per
command, and nothing else changed. -/
def Obligations.StreamingEqualsOneMessage : Prop :=
  ∀ (s : State) (d : Fin 16) (cs : List Chunk) (rest : List PortCmd),
    s.valid = true → d.val < s.cfg.nacc → s.isAlive d = true → (∀ c ∈ cs, c.fits) →
    s.input = cs.map (Chunk.onPort d) ++ rest →
    ∃ last : Word, Host.Core.run core cs.length s = .next
      { s with x := s.x.set d.val ((cs.flatMap Chunk.bytes).foldl (upd1 s) (s.getX d)) d.isLt
               input := rest, wdata := last
               responses := s.responses ++ List.replicate cs.length { status := 0, rdata := 0, obytes := [] } }

/-- R111, R113: after NEW d, whatever d held, CRCVAL d answers INIT ^ XOROUT, and so it does after NEW d and a zero-length
UPDW, for any data operand. -/
def Obligations.NewThenReadGivesInitXorXorout : Prop :=
  ∀ (d : Fin 16) (v : Word) (s : State), s.valid = true → d.val < s.cfg.nacc →
    ∃ t u, exec (.new d) s = .next t ∧
      exec (.crcval d) t = .next (answered t (s.init ^^^ s.xorout) []) ∧
      exec (.updw d 0) { t with wdata := v } = .next u ∧
      exec (.crcval d) u = .next (answered u (s.init ^^^ s.xorout) [])

/-- R112: a command writes at most the one accumulator its rd field names: every other register stays, and every other
ALIVE bit unless the command is BUILD. Hence two copies stay independent. (That BUILD, too, leaves every register x[j] is the model's
choice, log entry 9: the spec names no value of a discarded accumulator.) -/
def Obligations.CommandWritesOnlyItsAccumulator : Prop :=
  ∀ (i : Instr) (s t : State) (j : Fin 16), exec i s = .next t → destination i ≠ some j →
    t.getX j = s.getX j ∧ ((∀ r, i ≠ .build r) → t.isAlive j = s.isAlive j)

/-- R39, R72, R97, R115: no read changes the state: only the response is new, and on a fault the sticky bit. -/
def Obligations.ReadsDoNotMutate : Prop :=
  ∀ (i : Instr) (s t : State), readsOnly i = true → exec i s = .next t →
    t = { s with faults := t.faults, responses := t.responses } ∧
    ∃ r, t.responses = s.responses ++ [r] ∧ (r.status = 0 → t.faults = s.faults)

/-! ## Faults -/

/-- R125: a step on a presented command either answers status 0 and leaves FAULTS alone, or is squashed: one FAULTS bit
set, the response `resp(c, 0, [])` with that bit's number, every other piece of state as before the command. (That the
command has left the host's list and its data operand is sampled is the model's own, log entries 1, 3.) -/
def Obligations.FaultingCommandIsSquashed : Prop :=
  ∀ (s t : State) (c : PortCmd) (rest : List PortCmd), s.input = c :: rest → step s = .next t →
    (t.faults = s.faults ∧ ∃ r, t.responses = s.responses ++ [r] ∧ r.status = 0) ∨
    (t = faulted { s with input := rest, wdata := c.wdata } { s.faults with illegalCommand := true } 1 ∨
     t = faulted { s with input := rest, wdata := c.wdata } { s.faults with invalidSpecification := true } 2 ∨
     t = faulted { s with input := rest, wdata := c.wdata } { s.faults with notConfigured := true } 3 ∨
     t = faulted { s with input := rest, wdata := c.wdata } { s.faults with badAccumulator := true } 4 ∨
     t = faulted { s with input := rest, wdata := c.wdata } { s.faults with deadAccumulator := true } 5)

/-- R121, R122, R124: which fault a presented command raises, in the fixed order: 1 exactly when the word is no command,
in every state; then 2 by BUILD on the staged width alone; then 3, 4, 5; status 0 exactly when no condition holds; codes
above 5 never. -/
def Obligations.FaultCausesInFixedPriority : Prop :=
  ∀ (s t : State) (c : PortCmd) (rest : List PortCmd), s.input = c :: rest → step s = .next t →
    ∃ r, t.responses = s.responses ++ [r] ∧ r.status.toNat ≤ 5 ∧
      (r.status = 1 ↔ ∀ i, decode c.cmd ≠ .ok i) ∧
      ∀ i, decode c.cmd = .ok i →
        (r.status = 2 ↔ (∃ b, i = .build b) ∧ ¬ Admitted s.sWidth.toNat) ∧
        (r.status = 3 ↔ needsSpec i = true ∧ s.valid = false) ∧
        (r.status = 4 ↔ s.valid = true ∧ ∃ j ∈ usedIndices i, s.cfg.nacc ≤ j.val) ∧
        (r.status = 5 ↔ s.valid = true ∧ (∀ j ∈ usedIndices i, j.val < s.cfg.nacc) ∧
          ∃ j ∈ readIndices i, s.isAlive j = false) ∧
        (r.status = 0 ↔ ((∃ b, i = .build b) → Admitted s.sWidth.toNat) ∧
          (needsSpec i = true → s.valid = true ∧ indicesReady s i))

/-- R22, R24 (d): VALID and every FAULTS bit, once 1, stay 1 over every step, and NACC never changes; VALID becomes 1 only
by a BUILD with an admitted width; ALIVE[j] becomes 1 only by NEW or COPY to j, and 0 only by such a BUILD. -/
def Obligations.ValidAndFaultsAreSticky : Prop :=
  ∀ s t : State, step s = .next t →
    (s.valid = true → t.valid = true) ∧ (∀ c, s.faults.get c = true → t.faults.get c = true) ∧ t.cfg = s.cfg ∧
    (s.valid = false → t.valid = true →
      ∃ c rest r, s.input = c :: rest ∧ decode c.cmd = .ok (.build r) ∧ Admitted s.sWidth.toNat) ∧
    ∀ j : Fin 16,
      (s.isAlive j = false → t.isAlive j = true → ∃ c rest, s.input = c :: rest ∧
        (decode c.cmd = .ok (.new j) ∨ ∃ rs, decode c.cmd = .ok (.copy j rs))) ∧
      (s.isAlive j = true → t.isAlive j = false → ∃ c rest r, s.input = c :: rest ∧
        decode c.cmd = .ok (.build r) ∧ Admitted s.sWidth.toNat)

/-- R125, R146: "every status is 0" and "final FAULTS = 0" say the same of a run: the agreement holds at reset and is kept
by every step. -/
def Obligations.CleanStatusesMeanCleanFaults : Prop :=
  (∀ c : Config, (State.resetOf c).RecordAgrees) ∧
  ∀ s t : State, s.RecordAgrees → step s = .next t → t.RecordAgrees

/-! ## Whole-machine rules -/

/-- R16, R31, R94: no command but BUILD changes a field of the active spec, RPOLY, VALID or the table. -/
def Obligations.OnlyBuildWritesSpecAndTable : Prop :=
  ∀ (i : Instr) (s t : State), (∀ r, i ≠ .build r) → exec i s = .next t →
    t.width = s.width ∧ t.poly = s.poly ∧ t.refl = s.refl ∧ t.init = s.init ∧ t.xorout = s.xorout ∧
    t.rpoly = s.rpoly ∧ t.valid = s.valid ∧ t.table = s.table

/-- R18: a staging register is written by the WRSPEC command that names it and by no other command, BUILD included. -/
def Obligations.OnlyWrspecWritesStaging : Prop :=
  ∀ (i : Instr) (s t : State), exec i s = .next t →
    (i ≠ .wrspecWidth → t.sWidth = s.sWidth) ∧ (i ≠ .wrspecPoly → t.sPoly = s.sPoly) ∧
    (i ≠ .wrspecInit → t.sInit = s.sInit) ∧ (i ≠ .wrspecXorout → t.sXorout = s.sXorout)

/-- R50, U11: every command but WRSPEC and UPDW ignores `wdata` entirely; UPDW ignores lanes n to 7. -/
def Obligations.UnusedDataOperandIsIgnored : Prop :=
  (∀ (i : Instr) (s t : State) (v : Word), usesWdata i = false → exec i s = .next t →
    exec i { s with wdata := v } = .next { t with wdata := v }) ∧
  ∀ (rd : Fin 16) (n : Nat) (s t : State) (v : Word),
    v.toNat % 2 ^ (8 * n) = s.wdata.toNat % 2 ^ (8 * n) → exec (.updw rd n) s = .next t →
    exec (.updw rd n) { s with wdata := v } = .next { t with wdata := v }

/-- R24 (a) to (c): the invariants of the spec hold after every step from a state that meets them. -/
def Obligations.StepKeepsSpecInvariants : Prop := ∀ s t : State, s.Inv → step s = .next t → t.Inv

/-- R24: they hold after reset, for every admitted NACC. -/
def Obligations.ResetMeetsSpecInvariants : Prop := ∀ c : Config, c.wf → (State.resetOf c).Inv

/-- R27, R140: after reset the staging registers are 0, VALID is 0, every ALIVE bit is 0 and every FAULTS bit is 0; and
R7: NACC is 4 by default. -/
def Obligations.ResetValues : Prop :=
  State.reset.sWidth = 0 ∧ State.reset.sPoly = 0 ∧ State.reset.sInit = 0 ∧ State.reset.sXorout = 0 ∧
  State.reset.valid = false ∧ (∀ i, State.reset.isAlive i = false) ∧ (∀ c, State.reset.faults.get c = false) ∧
  State.reset.cfg.nacc = 4

/-- R27, U9, U10: what the spec leaves unspecified at reset and after BUILD is unobservable: two states that differ only in
it answer alike at every step and go on differing only in it. No claim rests on the reset values of log entries 6, 7. -/
def Obligations.UnspecifiedStateIsUnobservable : Prop :=
  ∀ s t : State, SameView s t → ∃ s' t', step s = .next s' ∧ step t = .next t' ∧ SameView s' t'
end

