-- ==== Sys2Proof/Laws/Bits.lean ====
section
/-! SUPPORT. Bits of the masks and of the values below 2^w, which the laws of the units rest on. -/

namespace Sys2Proof.Machine

/-- Bit i of `mask(w)`. -/
@[simp] theorem mask_getLsbD (w i : Nat) : (mask w).getLsbD i = (decide (i < 64) && decide (i < w)) := by
  simp [mask, BitVec.getLsbD_ofNat, Nat.testBit_two_pow_sub_one]

/-- Bit i of `norm(v, w)`. -/
@[simp] theorem norm_getLsbD (v : Word) (w i : Nat) : (norm v w).getLsbD i = (v.getLsbD i && decide (i < w)) := by
  rw [norm, BitVec.getLsbD_and, mask_getLsbD]
  by_cases h : i < 64
  · rw [decide_eq_true h, Bool.true_and]
  · rw [BitVec.getLsbD_of_ge v i (by omega), Bool.false_and, Bool.false_and]

/-- A value is below 2^w exactly when its bits from w on are 0. -/
theorem toNat_lt_two_pow_iff (v : Word) (w : Nat) : v.toNat < 2 ^ w ↔ ∀ i, w ≤ i → v.getLsbD i = false := by
  constructor
  · intro h i hi
    exact Nat.testBit_lt_two_pow (lt_of_lt_of_le h (Nat.pow_le_pow_right (by decide) hi))
  · intro h
    refine Nat.lt_pow_two_of_testBit _ fun i hi => ?_
    exact h i hi

/-- `norm` is below 2^w. -/
theorem norm_lt (v : Word) (w : Nat) : (norm v w).toNat < 2 ^ w :=
  (toNat_lt_two_pow_iff _ _).2 fun i hi => by simp; intro _; omega

/-- Masking a value that fits changes nothing. -/
theorem norm_of_lt {v : Word} {w : Nat} (h : v.toNat < 2 ^ w) : norm v w = v := by
  refine BitVec.eq_of_getLsbD_eq fun i _ => ?_
  by_cases hi : i < w
  · simp [hi]
  · simp [hi, (toNat_lt_two_pow_iff v w).1 h i (by omega)]

end Sys2Proof.Machine
end

