-- ==== Sys2Proof/Laws/Decode.lean ====
section
/-! SUPPORT. Each field of each format is the one that was put there. -/

namespace Sys2Proof

/-- Bit i of a word in format A. -/
theorem formatA_getLsbD (op rd rs fn : Nibble) (i : Nat) : (formatA op rd rs fn).getLsbD i =
    if i < 4 then fn.getLsbD i else if i < 8 then rs.getLsbD (i - 4) else if i < 12 then rd.getLsbD (i - 8)
    else op.getLsbD (i - 12) := by
  change BitVec.getLsbD (w := 4 + 4 + 4 + 4) (op ++ rd ++ rs ++ fn) i = _
  simp only [BitVec.getLsbD_append]
  split
  · rfl
  · rw [show i - 4 - 4 = i - 8 by omega, show i - 8 - 4 = i - 12 by omega]
    simp only [show i - 4 < 4 ↔ i < 8 by omega, show i - 8 < 4 ↔ i < 12 by omega]

/-- Bit i of a word in format I. -/
theorem formatI_getLsbD (op rd : Nibble) (b : Byte) (i : Nat) : (formatI op rd b).getLsbD i =
    if i < 8 then b.getLsbD i else if i < 12 then rd.getLsbD (i - 8) else op.getLsbD (i - 12) := by
  change BitVec.getLsbD (w := 4 + 4 + 8) (op ++ rd ++ b) i = _
  simp only [BitVec.getLsbD_append]
  split
  · rfl
  · rw [show i - 8 - 4 = i - 12 by omega]
    simp only [show i - 8 < 4 ↔ i < 12 by omega]

/-- A field of four bits read at place k. -/
theorem extract4_eq {c : CmdWord} {k : Nat} {f : Nibble} (h : ∀ i, i < 4 → c.getLsbD (k + i) = f.getLsbD i) :
    c.extractLsb' k 4 = f := by
  refine BitVec.eq_of_getLsbD_eq fun i hi => ?_
  rw [BitVec.getLsbD_extractLsb', h i hi]; simp [hi]

/-- A field of eight bits read at place k. -/
theorem extract8_eq {c : CmdWord} {k : Nat} {f : Byte} (h : ∀ i, i < 8 → c.getLsbD (k + i) = f.getLsbD i) :
    c.extractLsb' k 8 = f := by
  refine BitVec.eq_of_getLsbD_eq fun i hi => ?_
  rw [BitVec.getLsbD_extractLsb', h i hi]; simp [hi]

@[simp] theorem opField_formatA (op rd rs fn : Nibble) : opField (formatA op rd rs fn) = op :=
  extract4_eq fun i hi => by
    rw [formatA_getLsbD, if_neg (by omega), if_neg (by omega), if_neg (by omega), Nat.add_sub_cancel_left]

@[simp] theorem rdField_formatA (op rd rs fn : Nibble) : rdField (formatA op rd rs fn) = rd :=
  extract4_eq fun i hi => by
    rw [formatA_getLsbD, if_neg (by omega), if_neg (by omega), if_pos (by omega), Nat.add_sub_cancel_left]

@[simp] theorem rsField_formatA (op rd rs fn : Nibble) : rsField (formatA op rd rs fn) = rs :=
  extract4_eq fun i hi => by
    rw [formatA_getLsbD, if_neg (by omega), if_pos (by omega), Nat.add_sub_cancel_left]

@[simp] theorem fnField_formatA (op rd rs fn : Nibble) : fnField (formatA op rd rs fn) = fn :=
  extract4_eq fun i hi => by rw [formatA_getLsbD, if_pos (by omega), Nat.zero_add]

@[simp] theorem lowByte_formatA_zero (op rd : Nibble) : lowByte (formatA op rd 0#4 0#4) = 0#8 :=
  extract8_eq fun i hi => by
    rw [formatA_getLsbD]; split
    · simp
    · rw [if_pos (by omega)]; simp

@[simp] theorem opField_formatI (op rd : Nibble) (b : Byte) : opField (formatI op rd b) = op :=
  extract4_eq fun i hi => by rw [formatI_getLsbD, if_neg (by omega), if_neg (by omega), Nat.add_sub_cancel_left]

@[simp] theorem rdField_formatI (op rd : Nibble) (b : Byte) : rdField (formatI op rd b) = rd :=
  extract4_eq fun i hi => by rw [formatI_getLsbD, if_neg (by omega), if_pos (by omega), Nat.add_sub_cancel_left]

@[simp] theorem lowByte_formatI (op rd : Nibble) (b : Byte) : lowByte (formatI op rd b) = b :=
  extract8_eq fun i hi => by rw [formatI_getLsbD, if_pos (by omega), Nat.zero_add]

/-- Format T is format I with a zero in place of rd. -/
theorem formatT_eq (op : Nibble) (idx : Byte) : formatT op idx = formatI op 0 idx := rfl

/-- Format S is format I with a zero low byte. -/
theorem formatS_eq (op sel : Nibble) : formatS op sel = formatI op sel 0 := rfl

@[simp] theorem accIndex_accNibble (i : Fin 16) : accIndex (accNibble i) = i := rfl

@[simp] theorem accNibble_accIndex (f : Nibble) : accNibble (accIndex f) = f := rfl

end Sys2Proof
end

