-- ==== Sys2Proof/Laws/Memory.lean ====
section
/-! SUPPORT. The laws of the table memory: read after write, the canonical form, the fill of BUILD, and that two tables in
canonical form that read alike are the same table. -/

namespace Sys2Proof.Machine

/-- A table whose listed entries all stand after `k` reads as unlisted at `k`. -/
theorem Memory.readAt_of_lt {m : List Cell} {k : Nat} (h : ∀ c ∈ m, k < c.1) : Memory.readAt m k = Memory.unlisted := by
  induction m with
  | nil => rfl
  | cons c m ih =>
    obtain ⟨a, v⟩ := c
    have hk : k < a := h (a, v) (by simp)
    have ih' := ih fun d hd => h d (by simp [hd])
    simp [Memory.readAt, ih', show k ≠ a by omega]

/-- The canonical form holds of the tail. -/
theorem Memory.wf_tail {c : Cell} {m : List Cell} (h : Memory.wf (c :: m)) : Memory.wf m :=
  ⟨(List.pairwise_cons.1 h.1).2, fun d hd => h.2 d (by simp [hd])⟩

/-- What a write does to a read of any entry (R30). -/
theorem Memory.readAt_writeAt {m : List Cell} (h : Memory.wf m) (k j : Nat) (w : Word) :
    Memory.readAt (Memory.writeAt m k w) j = if j = k then w else Memory.readAt m j := by
  induction m with
  | nil =>
    by_cases hw : w = Memory.unlisted
    · simp [Memory.writeAt, Memory.readAt, hw]
    · simp [Memory.writeAt, Memory.readAt, hw]
  | cons c m ih =>
    obtain ⟨a, v⟩ := c
    have hlt : ∀ d ∈ m, a < d.1 := fun d hd => (List.pairwise_cons.1 h.1).1 d hd
    have ih' := ih (Memory.wf_tail h)
    unfold Memory.writeAt
    by_cases h1 : k < a
    · have hk : Memory.readAt m k = Memory.unlisted :=
        Memory.readAt_of_lt fun d hd => lt_trans h1 (hlt d hd)
      by_cases hw : w = Memory.unlisted
      · by_cases hj : j = k
        · subst hj; simp [h1, hw, Memory.readAt, hk, show j ≠ a by omega]
        · simp [h1, hw, hj]
      · simp [h1, hw, Memory.readAt]
    · by_cases h2 : k = a
      · subst h2
        have hk : Memory.readAt m k = Memory.unlisted := Memory.readAt_of_lt hlt
        by_cases hw : w = Memory.unlisted
        · by_cases hj : j = k
          · subst hj; simp [hw, hk]
          · simp [hw, hj, Memory.readAt]
        · by_cases hj : j = k <;> simp [hw, hj, Memory.readAt]
      · by_cases hj : j = a
        · subst hj; simp [h1, h2, Memory.readAt, show j ≠ k from fun e => h2 e.symm]
        · simp [h1, h2, Memory.readAt, hj, ih']

/-- Every entry listed after a write is the one written or was listed before. -/
theorem Memory.mem_writeAt {m : List Cell} {k : Nat} {w : Word} {c : Cell} (h : c ∈ Memory.writeAt m k w) :
    (c = (k, w) ∧ w ≠ Memory.unlisted) ∨ c ∈ m := by
  induction m with
  | nil =>
    by_cases hw : w = Memory.unlisted <;> simp_all [Memory.writeAt]
  | cons d m ih =>
    obtain ⟨a, v⟩ := d
    unfold Memory.writeAt at h
    by_cases h1 : k < a <;> by_cases h2 : k = a <;> by_cases hw : w = Memory.unlisted <;> simp_all <;> tauto

/-- A write keeps the canonical form. -/
theorem Memory.writeAt_wf {m : List Cell} (h : Memory.wf m) {k : Nat} (hk : k < 256) (w : Word) :
    Memory.wf (Memory.writeAt m k w) := by
  refine ⟨?_, fun c hc => ?_⟩
  · induction m with
    | nil => by_cases hw : w = Memory.unlisted <;> simp [Memory.writeAt, hw]
    | cons d m ih =>
      obtain ⟨a, v⟩ := d
      have hp := List.pairwise_cons.1 h.1
      unfold Memory.writeAt
      by_cases h1 : k < a
      · by_cases hw : w = Memory.unlisted
        · simp [h1, hw]; simpa using h.1
        · simp [h1, hw]
          exact ⟨fun b x hx => lt_trans h1 (hp.1 (b, x) hx), by simpa using hp⟩
      · by_cases h2 : k = a
        · subst h2
          by_cases hw : w = Memory.unlisted
          · simp [hw]; exact hp.2
          · simp [hw]; exact ⟨fun b x hx => hp.1 (b, x) hx, hp.2⟩
        · simp only [h1, h2, if_false]
          refine List.pairwise_cons.2 ⟨fun c hc => ?_, ih (Memory.wf_tail h)⟩
          rcases Memory.mem_writeAt hc with ⟨rfl, -⟩ | hm
          · show a < k; omega
          · exact hp.1 c hm
  · rcases Memory.mem_writeAt hc with ⟨rfl, hw⟩ | hm
    · exact ⟨hk, hw⟩
    · exact h.2 c hm

/-- MemRead after MemWrite (R30). -/
theorem memRead_memWrite {m : List Cell} (h : Memory.wf m) (i j : Byte) (v : Word) :
    memRead (memWrite m i v) j = if j = i then v else memRead m j := by
  simp [memRead, memWrite, Memory.readAt_writeAt h, BitVec.toNat_inj]

/-- MemWrite keeps the canonical form. -/
theorem memWrite_wf {m : List Cell} (h : Memory.wf m) (i : Byte) (v : Word) : Memory.wf (memWrite m i v) :=
  Memory.writeAt_wf h i.isLt v

/-- A run of writes over a list of entry numbers: the canonical form is kept, a number in the list reads as written, any
other as before. -/
theorem memFill_list {m : List Cell} (h : Memory.wf m) (entry : Byte → Word) (ks : List Nat) :
    Memory.wf (ks.foldl (fun m k => memWrite m (BitVec.ofNat 8 k) (entry (BitVec.ofNat 8 k))) m) ∧
    ∀ j : Byte, memRead (ks.foldl (fun m k => memWrite m (BitVec.ofNat 8 k) (entry (BitVec.ofNat 8 k))) m) j =
      if j ∈ ks.map (BitVec.ofNat 8) then entry j else memRead m j := by
  induction ks generalizing m with
  | nil => simpa using h
  | cons k ks ih =>
    obtain ⟨h1, h2⟩ := ih (memWrite_wf h (BitVec.ofNat 8 k) (entry (BitVec.ofNat 8 k)))
    refine ⟨h1, fun j => ?_⟩
    rw [List.foldl_cons, h2 j, memRead_memWrite h]
    by_cases hj : j ∈ ks.map (BitVec.ofNat 8)
    · simp only [hj, if_true, List.map_cons, List.mem_cons, or_true]
    · by_cases e : j = BitVec.ofNat 8 k
      · simp only [← e, List.map_cons, List.mem_cons, true_or, if_true, ite_self]
      · simp only [hj, e, List.map_cons, List.mem_cons, or_self, if_false]

/-- Every byte is among the 256 numbers BUILD writes. -/
theorem mem_all_entries (j : Byte) : j ∈ (List.range 256).map (BitVec.ofNat 8) :=
  List.mem_map.2 ⟨j.toNat, List.mem_range.2 j.isLt, by simp⟩

/-- After the fill every entry reads as BUILD wrote it (R90, R91). -/
theorem memRead_memFill {m : List Cell} (h : Memory.wf m) (entry : Byte → Word) (j : Byte) :
    memRead (memFill m entry) j = entry j := by
  unfold memFill; rw [(memFill_list h entry _).2 j, if_pos (mem_all_entries j)]

/-- The fill keeps the canonical form. -/
theorem memFill_wf {m : List Cell} (h : Memory.wf m) (entry : Byte → Word) : Memory.wf (memFill m entry) := by
  unfold memFill; exact (memFill_list h entry _).1

/-- An entry number outside the table reads as unlisted in a table of canonical form. -/
theorem Memory.readAt_outside {m : List Cell} (h : Memory.wf m) {k : Nat} (hk : 256 ≤ k) :
    Memory.readAt m k = Memory.unlisted := by
  induction m with
  | nil => rfl
  | cons c m ih =>
    obtain ⟨a, v⟩ := c
    have := (h.2 (a, v) (by simp)).1
    simp only at this
    simp [Memory.readAt, show k ≠ a by omega, ih (Memory.wf_tail h)]

/-- Equal reads, equal tables: the form is canonical. -/
theorem Memory.ext_readAt {m n : List Cell} (hm : Memory.wf m) (hn : Memory.wf n)
    (h : ∀ k, Memory.readAt m k = Memory.readAt n k) : m = n := by
  induction m generalizing n with
  | nil =>
    cases n with
    | nil => rfl
    | cons d n =>
      have := h d.1; simp [Memory.readAt] at this
      exact absurd this.symm (hn.2 d (by simp)).2
  | cons c m ih =>
    obtain ⟨a, v⟩ := c
    have hv := (hm.2 (a, v) (by simp)).2
    have hlm : ∀ e ∈ m, a < e.1 := fun e he => (List.pairwise_cons.1 hm.1).1 e he
    cases n with
    | nil => have := h a; simp [Memory.readAt] at this; exact absurd this hv
    | cons d n =>
      obtain ⟨b, u⟩ := d
      have hu := (hn.2 (b, u) (by simp)).2
      have hln : ∀ e ∈ n, b < e.1 := fun e he => (List.pairwise_cons.1 hn.1).1 e he
      have hab : a = b := by
        rcases Nat.lt_trichotomy a b with hlt | he | hlt
        · have := h a
          rw [Memory.readAt_of_lt (m := (b, u) :: n)] at this
          · simp [Memory.readAt] at this; exact absurd this hv
          · intro e he; rcases List.mem_cons.1 he with rfl | he
            · exact hlt
            · exact lt_trans hlt (hln e he)
        · exact he
        · have := h b
          rw [Memory.readAt_of_lt (m := (a, v) :: m)] at this
          · simp [Memory.readAt] at this; exact absurd this.symm hu
          · intro e he; rcases List.mem_cons.1 he with rfl | he
            · exact hlt
            · exact lt_trans hlt (hlm e he)
      subst hab
      have hvu : v = u := by simpa [Memory.readAt] using h a
      subst hvu
      rw [ih (Memory.wf_tail hm) (Memory.wf_tail hn) fun k => ?_]
      by_cases hk : k = a
      · subst hk; rw [Memory.readAt_of_lt hlm, Memory.readAt_of_lt hln]
      · simpa [Memory.readAt, hk] using h k

/-- Tables in canonical form that agree on all 256 entries are the same table. -/
theorem Memory.ext_memRead {m n : List Cell} (hm : Memory.wf m) (hn : Memory.wf n)
    (h : ∀ k : Byte, memRead m k = memRead n k) : m = n := by
  refine Memory.ext_readAt hm hn fun k => ?_
  by_cases hk : k < 256
  · have := h (BitVec.ofNat 8 k)
    simpa [memRead, Nat.mod_eq_of_lt hk] using this
  · rw [Memory.readAt_outside hm (by omega), Memory.readAt_outside hn (by omega)]

end Sys2Proof.Machine
end

