-- ==== Sys2Proof/Laws/State.lean ====
section
/-! SUPPORT. One lemma per field per named update of the state, each true by rfl, so that no later proof unfolds an
update. -/

namespace Sys2Proof.Machine

@[simp] theorem State.setX_sWidth (s : State) (i : Fin 16) (v : Word) : (s.setX i v).sWidth = s.sWidth := rfl
@[simp] theorem State.setX_sPoly (s : State) (i : Fin 16) (v : Word) : (s.setX i v).sPoly = s.sPoly := rfl
@[simp] theorem State.setX_sInit (s : State) (i : Fin 16) (v : Word) : (s.setX i v).sInit = s.sInit := rfl
@[simp] theorem State.setX_sXorout (s : State) (i : Fin 16) (v : Word) : (s.setX i v).sXorout = s.sXorout := rfl
@[simp] theorem State.setX_width (s : State) (i : Fin 16) (v : Word) : (s.setX i v).width = s.width := rfl
@[simp] theorem State.setX_poly (s : State) (i : Fin 16) (v : Word) : (s.setX i v).poly = s.poly := rfl
@[simp] theorem State.setX_refl (s : State) (i : Fin 16) (v : Word) : (s.setX i v).refl = s.refl := rfl
@[simp] theorem State.setX_init (s : State) (i : Fin 16) (v : Word) : (s.setX i v).init = s.init := rfl
@[simp] theorem State.setX_xorout (s : State) (i : Fin 16) (v : Word) : (s.setX i v).xorout = s.xorout := rfl
@[simp] theorem State.setX_rpoly (s : State) (i : Fin 16) (v : Word) : (s.setX i v).rpoly = s.rpoly := rfl
@[simp] theorem State.setX_valid (s : State) (i : Fin 16) (v : Word) : (s.setX i v).valid = s.valid := rfl
@[simp] theorem State.setX_alive (s : State) (i : Fin 16) (v : Word) : (s.setX i v).alive = s.alive := rfl
@[simp] theorem State.setX_x (s : State) (i : Fin 16) (v : Word) : (s.setX i v).x = s.x.set i.val v i.isLt := rfl
@[simp] theorem State.setX_table (s : State) (i : Fin 16) (v : Word) : (s.setX i v).table = s.table := rfl
@[simp] theorem State.setX_faults (s : State) (i : Fin 16) (v : Word) : (s.setX i v).faults = s.faults := rfl
@[simp] theorem State.setX_cfg (s : State) (i : Fin 16) (v : Word) : (s.setX i v).cfg = s.cfg := rfl
@[simp] theorem State.setX_wdata (s : State) (i : Fin 16) (v : Word) : (s.setX i v).wdata = s.wdata := rfl
@[simp] theorem State.setX_input (s : State) (i : Fin 16) (v : Word) : (s.setX i v).input = s.input := rfl
@[simp] theorem State.setX_responses (s : State) (i : Fin 16) (v : Word) : (s.setX i v).responses = s.responses := rfl

@[simp] theorem State.setAlive_sWidth (s : State) (i : Fin 16) : (s.setAlive i).sWidth = s.sWidth := rfl
@[simp] theorem State.setAlive_sPoly (s : State) (i : Fin 16) : (s.setAlive i).sPoly = s.sPoly := rfl
@[simp] theorem State.setAlive_sInit (s : State) (i : Fin 16) : (s.setAlive i).sInit = s.sInit := rfl
@[simp] theorem State.setAlive_sXorout (s : State) (i : Fin 16) : (s.setAlive i).sXorout = s.sXorout := rfl
@[simp] theorem State.setAlive_width (s : State) (i : Fin 16) : (s.setAlive i).width = s.width := rfl
@[simp] theorem State.setAlive_poly (s : State) (i : Fin 16) : (s.setAlive i).poly = s.poly := rfl
@[simp] theorem State.setAlive_refl (s : State) (i : Fin 16) : (s.setAlive i).refl = s.refl := rfl
@[simp] theorem State.setAlive_init (s : State) (i : Fin 16) : (s.setAlive i).init = s.init := rfl
@[simp] theorem State.setAlive_xorout (s : State) (i : Fin 16) : (s.setAlive i).xorout = s.xorout := rfl
@[simp] theorem State.setAlive_rpoly (s : State) (i : Fin 16) : (s.setAlive i).rpoly = s.rpoly := rfl
@[simp] theorem State.setAlive_valid (s : State) (i : Fin 16) : (s.setAlive i).valid = s.valid := rfl
@[simp] theorem State.setAlive_alive (s : State) (i : Fin 16) : (s.setAlive i).alive = s.alive.set i.val true i.isLt := rfl
@[simp] theorem State.setAlive_x (s : State) (i : Fin 16) : (s.setAlive i).x = s.x := rfl
@[simp] theorem State.setAlive_table (s : State) (i : Fin 16) : (s.setAlive i).table = s.table := rfl
@[simp] theorem State.setAlive_faults (s : State) (i : Fin 16) : (s.setAlive i).faults = s.faults := rfl
@[simp] theorem State.setAlive_cfg (s : State) (i : Fin 16) : (s.setAlive i).cfg = s.cfg := rfl
@[simp] theorem State.setAlive_wdata (s : State) (i : Fin 16) : (s.setAlive i).wdata = s.wdata := rfl
@[simp] theorem State.setAlive_input (s : State) (i : Fin 16) : (s.setAlive i).input = s.input := rfl
@[simp] theorem State.setAlive_responses (s : State) (i : Fin 16) : (s.setAlive i).responses = s.responses := rfl

@[simp] theorem State.clearAlive_sWidth (s : State) : (s.clearAlive).sWidth = s.sWidth := rfl
@[simp] theorem State.clearAlive_sPoly (s : State) : (s.clearAlive).sPoly = s.sPoly := rfl
@[simp] theorem State.clearAlive_sInit (s : State) : (s.clearAlive).sInit = s.sInit := rfl
@[simp] theorem State.clearAlive_sXorout (s : State) : (s.clearAlive).sXorout = s.sXorout := rfl
@[simp] theorem State.clearAlive_width (s : State) : (s.clearAlive).width = s.width := rfl
@[simp] theorem State.clearAlive_poly (s : State) : (s.clearAlive).poly = s.poly := rfl
@[simp] theorem State.clearAlive_refl (s : State) : (s.clearAlive).refl = s.refl := rfl
@[simp] theorem State.clearAlive_init (s : State) : (s.clearAlive).init = s.init := rfl
@[simp] theorem State.clearAlive_xorout (s : State) : (s.clearAlive).xorout = s.xorout := rfl
@[simp] theorem State.clearAlive_rpoly (s : State) : (s.clearAlive).rpoly = s.rpoly := rfl
@[simp] theorem State.clearAlive_valid (s : State) : (s.clearAlive).valid = s.valid := rfl
@[simp] theorem State.clearAlive_alive (s : State) : (s.clearAlive).alive = Vector.replicate 16 false := rfl
@[simp] theorem State.clearAlive_x (s : State) : (s.clearAlive).x = s.x := rfl
@[simp] theorem State.clearAlive_table (s : State) : (s.clearAlive).table = s.table := rfl
@[simp] theorem State.clearAlive_faults (s : State) : (s.clearAlive).faults = s.faults := rfl
@[simp] theorem State.clearAlive_cfg (s : State) : (s.clearAlive).cfg = s.cfg := rfl
@[simp] theorem State.clearAlive_wdata (s : State) : (s.clearAlive).wdata = s.wdata := rfl
@[simp] theorem State.clearAlive_input (s : State) : (s.clearAlive).input = s.input := rfl
@[simp] theorem State.clearAlive_responses (s : State) : (s.clearAlive).responses = s.responses := rfl

@[simp] theorem State.present_sWidth (s : State) (c : PortCmd) : (s.present c).sWidth = s.sWidth := rfl
@[simp] theorem State.present_sPoly (s : State) (c : PortCmd) : (s.present c).sPoly = s.sPoly := rfl
@[simp] theorem State.present_sInit (s : State) (c : PortCmd) : (s.present c).sInit = s.sInit := rfl
@[simp] theorem State.present_sXorout (s : State) (c : PortCmd) : (s.present c).sXorout = s.sXorout := rfl
@[simp] theorem State.present_width (s : State) (c : PortCmd) : (s.present c).width = s.width := rfl
@[simp] theorem State.present_poly (s : State) (c : PortCmd) : (s.present c).poly = s.poly := rfl
@[simp] theorem State.present_refl (s : State) (c : PortCmd) : (s.present c).refl = s.refl := rfl
@[simp] theorem State.present_init (s : State) (c : PortCmd) : (s.present c).init = s.init := rfl
@[simp] theorem State.present_xorout (s : State) (c : PortCmd) : (s.present c).xorout = s.xorout := rfl
@[simp] theorem State.present_rpoly (s : State) (c : PortCmd) : (s.present c).rpoly = s.rpoly := rfl
@[simp] theorem State.present_valid (s : State) (c : PortCmd) : (s.present c).valid = s.valid := rfl
@[simp] theorem State.present_alive (s : State) (c : PortCmd) : (s.present c).alive = s.alive := rfl
@[simp] theorem State.present_x (s : State) (c : PortCmd) : (s.present c).x = s.x := rfl
@[simp] theorem State.present_table (s : State) (c : PortCmd) : (s.present c).table = s.table := rfl
@[simp] theorem State.present_faults (s : State) (c : PortCmd) : (s.present c).faults = s.faults := rfl
@[simp] theorem State.present_cfg (s : State) (c : PortCmd) : (s.present c).cfg = s.cfg := rfl
@[simp] theorem State.present_wdata (s : State) (c : PortCmd) : (s.present c).wdata = s.wdata := rfl
@[simp] theorem State.present_input (s : State) (c : PortCmd) : (s.present c).input = c :: s.input := rfl
@[simp] theorem State.present_responses (s : State) (c : PortCmd) : (s.present c).responses = s.responses := rfl

@[simp] theorem State.accept_sWidth (s : State) (c : PortCmd) (rest : List PortCmd) : (s.accept c rest).sWidth = s.sWidth := rfl
@[simp] theorem State.accept_sPoly (s : State) (c : PortCmd) (rest : List PortCmd) : (s.accept c rest).sPoly = s.sPoly := rfl
@[simp] theorem State.accept_sInit (s : State) (c : PortCmd) (rest : List PortCmd) : (s.accept c rest).sInit = s.sInit := rfl
@[simp] theorem State.accept_sXorout (s : State) (c : PortCmd) (rest : List PortCmd) : (s.accept c rest).sXorout = s.sXorout := rfl
@[simp] theorem State.accept_width (s : State) (c : PortCmd) (rest : List PortCmd) : (s.accept c rest).width = s.width := rfl
@[simp] theorem State.accept_poly (s : State) (c : PortCmd) (rest : List PortCmd) : (s.accept c rest).poly = s.poly := rfl
@[simp] theorem State.accept_refl (s : State) (c : PortCmd) (rest : List PortCmd) : (s.accept c rest).refl = s.refl := rfl
@[simp] theorem State.accept_init (s : State) (c : PortCmd) (rest : List PortCmd) : (s.accept c rest).init = s.init := rfl
@[simp] theorem State.accept_xorout (s : State) (c : PortCmd) (rest : List PortCmd) : (s.accept c rest).xorout = s.xorout := rfl
@[simp] theorem State.accept_rpoly (s : State) (c : PortCmd) (rest : List PortCmd) : (s.accept c rest).rpoly = s.rpoly := rfl
@[simp] theorem State.accept_valid (s : State) (c : PortCmd) (rest : List PortCmd) : (s.accept c rest).valid = s.valid := rfl
@[simp] theorem State.accept_alive (s : State) (c : PortCmd) (rest : List PortCmd) : (s.accept c rest).alive = s.alive := rfl
@[simp] theorem State.accept_x (s : State) (c : PortCmd) (rest : List PortCmd) : (s.accept c rest).x = s.x := rfl
@[simp] theorem State.accept_table (s : State) (c : PortCmd) (rest : List PortCmd) : (s.accept c rest).table = s.table := rfl
@[simp] theorem State.accept_faults (s : State) (c : PortCmd) (rest : List PortCmd) : (s.accept c rest).faults = s.faults := rfl
@[simp] theorem State.accept_cfg (s : State) (c : PortCmd) (rest : List PortCmd) : (s.accept c rest).cfg = s.cfg := rfl
@[simp] theorem State.accept_wdata (s : State) (c : PortCmd) (rest : List PortCmd) : (s.accept c rest).wdata = c.wdata := rfl
@[simp] theorem State.accept_input (s : State) (c : PortCmd) (rest : List PortCmd) : (s.accept c rest).input = rest := rfl
@[simp] theorem State.accept_responses (s : State) (c : PortCmd) (rest : List PortCmd) : (s.accept c rest).responses = s.responses := rfl

@[simp] theorem State.respond_sWidth (s : State) (v : Word) (bs : List Byte) : (s.respond v bs).sWidth = s.sWidth := rfl
@[simp] theorem State.respond_sPoly (s : State) (v : Word) (bs : List Byte) : (s.respond v bs).sPoly = s.sPoly := rfl
@[simp] theorem State.respond_sInit (s : State) (v : Word) (bs : List Byte) : (s.respond v bs).sInit = s.sInit := rfl
@[simp] theorem State.respond_sXorout (s : State) (v : Word) (bs : List Byte) : (s.respond v bs).sXorout = s.sXorout := rfl
@[simp] theorem State.respond_width (s : State) (v : Word) (bs : List Byte) : (s.respond v bs).width = s.width := rfl
@[simp] theorem State.respond_poly (s : State) (v : Word) (bs : List Byte) : (s.respond v bs).poly = s.poly := rfl
@[simp] theorem State.respond_refl (s : State) (v : Word) (bs : List Byte) : (s.respond v bs).refl = s.refl := rfl
@[simp] theorem State.respond_init (s : State) (v : Word) (bs : List Byte) : (s.respond v bs).init = s.init := rfl
@[simp] theorem State.respond_xorout (s : State) (v : Word) (bs : List Byte) : (s.respond v bs).xorout = s.xorout := rfl
@[simp] theorem State.respond_rpoly (s : State) (v : Word) (bs : List Byte) : (s.respond v bs).rpoly = s.rpoly := rfl
@[simp] theorem State.respond_valid (s : State) (v : Word) (bs : List Byte) : (s.respond v bs).valid = s.valid := rfl
@[simp] theorem State.respond_alive (s : State) (v : Word) (bs : List Byte) : (s.respond v bs).alive = s.alive := rfl
@[simp] theorem State.respond_x (s : State) (v : Word) (bs : List Byte) : (s.respond v bs).x = s.x := rfl
@[simp] theorem State.respond_table (s : State) (v : Word) (bs : List Byte) : (s.respond v bs).table = s.table := rfl
@[simp] theorem State.respond_faults (s : State) (v : Word) (bs : List Byte) : (s.respond v bs).faults = s.faults := rfl
@[simp] theorem State.respond_cfg (s : State) (v : Word) (bs : List Byte) : (s.respond v bs).cfg = s.cfg := rfl
@[simp] theorem State.respond_wdata (s : State) (v : Word) (bs : List Byte) : (s.respond v bs).wdata = s.wdata := rfl
@[simp] theorem State.respond_input (s : State) (v : Word) (bs : List Byte) : (s.respond v bs).input = s.input := rfl
@[simp] theorem State.respond_responses (s : State) (v : Word) (bs : List Byte) : (s.respond v bs).responses = s.responses ++ [⟨0, v, bs⟩] := rfl

@[simp] theorem State.takeFault_sWidth (s : State) (c : Cause) : (s.takeFault c).sWidth = s.sWidth := rfl
@[simp] theorem State.takeFault_sPoly (s : State) (c : Cause) : (s.takeFault c).sPoly = s.sPoly := rfl
@[simp] theorem State.takeFault_sInit (s : State) (c : Cause) : (s.takeFault c).sInit = s.sInit := rfl
@[simp] theorem State.takeFault_sXorout (s : State) (c : Cause) : (s.takeFault c).sXorout = s.sXorout := rfl
@[simp] theorem State.takeFault_width (s : State) (c : Cause) : (s.takeFault c).width = s.width := rfl
@[simp] theorem State.takeFault_poly (s : State) (c : Cause) : (s.takeFault c).poly = s.poly := rfl
@[simp] theorem State.takeFault_refl (s : State) (c : Cause) : (s.takeFault c).refl = s.refl := rfl
@[simp] theorem State.takeFault_init (s : State) (c : Cause) : (s.takeFault c).init = s.init := rfl
@[simp] theorem State.takeFault_xorout (s : State) (c : Cause) : (s.takeFault c).xorout = s.xorout := rfl
@[simp] theorem State.takeFault_rpoly (s : State) (c : Cause) : (s.takeFault c).rpoly = s.rpoly := rfl
@[simp] theorem State.takeFault_valid (s : State) (c : Cause) : (s.takeFault c).valid = s.valid := rfl
@[simp] theorem State.takeFault_alive (s : State) (c : Cause) : (s.takeFault c).alive = s.alive := rfl
@[simp] theorem State.takeFault_x (s : State) (c : Cause) : (s.takeFault c).x = s.x := rfl
@[simp] theorem State.takeFault_table (s : State) (c : Cause) : (s.takeFault c).table = s.table := rfl
@[simp] theorem State.takeFault_faults (s : State) (c : Cause) : (s.takeFault c).faults = s.faults.raise c := rfl
@[simp] theorem State.takeFault_cfg (s : State) (c : Cause) : (s.takeFault c).cfg = s.cfg := rfl
@[simp] theorem State.takeFault_wdata (s : State) (c : Cause) : (s.takeFault c).wdata = s.wdata := rfl
@[simp] theorem State.takeFault_input (s : State) (c : Cause) : (s.takeFault c).input = s.input := rfl
@[simp] theorem State.takeFault_responses (s : State) (c : Cause) : (s.takeFault c).responses = s.responses ++ [⟨c.code, 0, []⟩] := rfl

@[simp] theorem fillTable_sWidth (s : State) : (fillTable s).sWidth = s.sWidth := rfl
@[simp] theorem fillTable_sPoly (s : State) : (fillTable s).sPoly = s.sPoly := rfl
@[simp] theorem fillTable_sInit (s : State) : (fillTable s).sInit = s.sInit := rfl
@[simp] theorem fillTable_sXorout (s : State) : (fillTable s).sXorout = s.sXorout := rfl
@[simp] theorem fillTable_width (s : State) : (fillTable s).width = s.width := rfl
@[simp] theorem fillTable_poly (s : State) : (fillTable s).poly = s.poly := rfl
@[simp] theorem fillTable_refl (s : State) : (fillTable s).refl = s.refl := rfl
@[simp] theorem fillTable_init (s : State) : (fillTable s).init = s.init := rfl
@[simp] theorem fillTable_xorout (s : State) : (fillTable s).xorout = s.xorout := rfl
@[simp] theorem fillTable_rpoly (s : State) : (fillTable s).rpoly = s.rpoly := rfl
@[simp] theorem fillTable_valid (s : State) : (fillTable s).valid = s.valid := rfl
@[simp] theorem fillTable_alive (s : State) : (fillTable s).alive = s.alive := rfl
@[simp] theorem fillTable_x (s : State) : (fillTable s).x = s.x := rfl
@[simp] theorem fillTable_table (s : State) : (fillTable s).table = memFill s.table (tblentry s) := rfl
@[simp] theorem fillTable_faults (s : State) : (fillTable s).faults = s.faults := rfl
@[simp] theorem fillTable_cfg (s : State) : (fillTable s).cfg = s.cfg := rfl
@[simp] theorem fillTable_wdata (s : State) : (fillTable s).wdata = s.wdata := rfl
@[simp] theorem fillTable_input (s : State) : (fillTable s).input = s.input := rfl
@[simp] theorem fillTable_responses (s : State) : (fillTable s).responses = s.responses := rfl

@[simp] theorem commitSpec_sWidth (r : Bool) (s : State) : (commitSpec r s).sWidth = s.sWidth := rfl
@[simp] theorem commitSpec_sPoly (r : Bool) (s : State) : (commitSpec r s).sPoly = s.sPoly := rfl
@[simp] theorem commitSpec_sInit (r : Bool) (s : State) : (commitSpec r s).sInit = s.sInit := rfl
@[simp] theorem commitSpec_sXorout (r : Bool) (s : State) : (commitSpec r s).sXorout = s.sXorout := rfl
@[simp] theorem commitSpec_width (r : Bool) (s : State) : (commitSpec r s).width = s.sWidth.setWidth 7 := rfl
@[simp] theorem commitSpec_poly (r : Bool) (s : State) : (commitSpec r s).poly = norm s.sPoly s.sWidth.toNat := rfl
@[simp] theorem commitSpec_refl (r : Bool) (s : State) : (commitSpec r s).refl = r := rfl
@[simp] theorem commitSpec_init (r : Bool) (s : State) : (commitSpec r s).init = norm s.sInit s.sWidth.toNat := rfl
@[simp] theorem commitSpec_xorout (r : Bool) (s : State) : (commitSpec r s).xorout = norm s.sXorout s.sWidth.toNat := rfl
@[simp] theorem commitSpec_rpoly (r : Bool) (s : State) : (commitSpec r s).rpoly = reflect (norm s.sPoly s.sWidth.toNat) s.sWidth.toNat := rfl
@[simp] theorem commitSpec_valid (r : Bool) (s : State) : (commitSpec r s).valid = s.valid := rfl
@[simp] theorem commitSpec_alive (r : Bool) (s : State) : (commitSpec r s).alive = s.alive := rfl
@[simp] theorem commitSpec_x (r : Bool) (s : State) : (commitSpec r s).x = s.x := rfl
@[simp] theorem commitSpec_table (r : Bool) (s : State) : (commitSpec r s).table = s.table := rfl
@[simp] theorem commitSpec_faults (r : Bool) (s : State) : (commitSpec r s).faults = s.faults := rfl
@[simp] theorem commitSpec_cfg (r : Bool) (s : State) : (commitSpec r s).cfg = s.cfg := rfl
@[simp] theorem commitSpec_wdata (r : Bool) (s : State) : (commitSpec r s).wdata = s.wdata := rfl
@[simp] theorem commitSpec_input (r : Bool) (s : State) : (commitSpec r s).input = s.input := rfl
@[simp] theorem commitSpec_responses (r : Bool) (s : State) : (commitSpec r s).responses = s.responses := rfl

/-- The bits of the fault record other than the one raised stay (R125). -/
@[simp] theorem Faults.get_raise (f : Faults) (c d : Cause) : (f.raise c).get d = (decide (c = d) || f.get d) := by
  cases c <;> cases d <;> rfl

/-- Raising a fault again has no further effect (R126). -/
theorem Faults.raise_raise (f : Faults) (c : Cause) : (f.raise c).raise c = f.raise c := by
  cases c <;> rfl

/-- Two fault records with the same five bits are the same. -/
theorem Faults.ext_get {f g : Faults} (h : ∀ c, f.get c = g.get c) : f = g := by
  have h1 := h .illegalCommand; have h2 := h .invalidSpecification; have h3 := h .notConfigured
  have h4 := h .badAccumulator; have h5 := h .deadAccumulator
  cases f; cases g; simp_all [Faults.get]

/-- No fault has the code of success, and different faults have different codes (R121). -/
theorem Cause.code_ne_zero (c : Cause) : c.code ≠ 0 := by cases c <;> decide

theorem Cause.code_inj {c d : Cause} (h : c.code = d.code) : c = d := by
  revert h; cases c <;> cases d <;> decide

@[simp] theorem State.getX_setX_same (s : State) (i : Fin 16) (v : Word) : (s.setX i v).getX i = v := by
  simp [State.getX, State.setX]

theorem State.getX_setX_ne (s : State) {i j : Fin 16} (v : Word) (h : i ≠ j) : (s.setX i v).getX j = s.getX j := by
  have h' : i.val ≠ j.val := fun e => h (Fin.ext e)
  simp [State.getX, State.setX, Vector.getElem_set_ne _ _ h']

@[simp] theorem State.isAlive_setAlive_same (s : State) (i : Fin 16) : (s.setAlive i).isAlive i = true := by
  simp [State.isAlive, State.setAlive]

theorem State.isAlive_setAlive_ne (s : State) {i j : Fin 16} (h : i ≠ j) :
    (s.setAlive i).isAlive j = s.isAlive j := by
  have h' : i.val ≠ j.val := fun e => h (Fin.ext e)
  simp [State.isAlive, State.setAlive, Vector.getElem_set_ne _ _ h']

@[simp] theorem State.isAlive_clearAlive (s : State) (i : Fin 16) : s.clearAlive.isAlive i = false := by
  simp [State.isAlive, State.clearAlive]

/-- Writing an accumulator with its own value changes nothing (R104, n = 0). -/
@[simp] theorem State.setX_getX (s : State) (i : Fin 16) : s.setX i (s.getX i) = s := by
  have h : s.x.set i.val s.x[i.val] i.isLt = s.x := by
    ext j hj; by_cases e : i.val = j
    · subst e; simp
    · simp
  simp [State.setX, State.getX, h]

@[simp] theorem State.isAlive_setX (s : State) (i : Fin 16) (v : Word) (j : Fin 16) : (s.setX i v).isAlive j = s.isAlive j := rfl
@[simp] theorem State.getX_setAlive (s : State) (i : Fin 16) (j : Fin 16) : (s.setAlive i).getX j = s.getX j := rfl
@[simp] theorem State.getX_clearAlive (s : State) (j : Fin 16) : (s.clearAlive).getX j = s.getX j := rfl
@[simp] theorem State.getX_present (s : State) (c : PortCmd) (j : Fin 16) : (s.present c).getX j = s.getX j := rfl
@[simp] theorem State.isAlive_present (s : State) (c : PortCmd) (j : Fin 16) : (s.present c).isAlive j = s.isAlive j := rfl
@[simp] theorem State.getX_accept (s : State) (c : PortCmd) (rest : List PortCmd) (j : Fin 16) : (s.accept c rest).getX j = s.getX j := rfl
@[simp] theorem State.isAlive_accept (s : State) (c : PortCmd) (rest : List PortCmd) (j : Fin 16) : (s.accept c rest).isAlive j = s.isAlive j := rfl
@[simp] theorem State.getX_respond (s : State) (v : Word) (bs : List Byte) (j : Fin 16) : (s.respond v bs).getX j = s.getX j := rfl
@[simp] theorem State.isAlive_respond (s : State) (v : Word) (bs : List Byte) (j : Fin 16) : (s.respond v bs).isAlive j = s.isAlive j := rfl
@[simp] theorem State.getX_takeFault (s : State) (c : Cause) (j : Fin 16) : (s.takeFault c).getX j = s.getX j := rfl
@[simp] theorem State.isAlive_takeFault (s : State) (c : Cause) (j : Fin 16) : (s.takeFault c).isAlive j = s.isAlive j := rfl
@[simp] theorem getX_fillTable (s : State) (j : Fin 16) : (fillTable s).getX j = s.getX j := rfl
@[simp] theorem isAlive_fillTable (s : State) (j : Fin 16) : (fillTable s).isAlive j = s.isAlive j := rfl
@[simp] theorem getX_commitSpec (r : Bool) (s : State) (j : Fin 16) : (commitSpec r s).getX j = s.getX j := rfl
@[simp] theorem isAlive_commitSpec (r : Bool) (s : State) (j : Fin 16) : (commitSpec r s).isAlive j = s.isAlive j := rfl

end Sys2Proof.Machine
end

