-- ==== Sys2Proof/Laws/Ops.lean ====
section
/-! SUPPORT. What the shared operations can do, said once: `checked` answers a next state always, and which one. -/

namespace Sys2Proof.Machine

@[simp] theorem firstFault_nil : firstFault [] = none := rfl
@[simp] theorem firstFault_some (c : Cause) (l : List (Option Cause)) : firstFault (some c :: l) = some c := rfl
@[simp] theorem firstFault_none (l : List (Option Cause)) : firstFault (none :: l) = firstFault l := rfl

/-- No fault is found exactly when every test passes. -/
theorem firstFault_eq_none {l : List (Option Cause)} : firstFault l = none ↔ ∀ c ∈ l, c = none := by
  induction l with
  | nil => simp
  | cons o l ih => cases o <;> simp [ih]

/-- The fault found is one a test named. -/
theorem firstFault_mem {l : List (Option Cause)} {c : Cause} (h : firstFault l = some c) : some c ∈ l := by
  induction l with
  | nil => simp at h
  | cons o l ih =>
    cases o with
    | none => simp at h; simp [ih h]
    | some d => simp at h; simp [h]

theorem checkCfg_eq_none {s : State} : checkCfg s = none ↔ s.valid = true := by
  unfold checkCfg; cases s.valid <;> simp

theorem checkIdx_eq_none {s : State} {i : Fin 16} : checkIdx s i = none ↔ i.val < s.cfg.nacc := by
  unfold checkIdx; split <;> simp <;> omega

theorem checkLive_eq_none {s : State} {i : Fin 16} : checkLive s i = none ↔ s.isAlive i = true := by
  unfold checkLive; cases s.isAlive i <;> simp

theorem checkCfg_pass {s : State} (h : s.valid = true) : checkCfg s = none := checkCfg_eq_none.2 h
theorem checkIdx_pass {s : State} {i : Fin 16} (h : i.val < s.cfg.nacc) : checkIdx s i = none := checkIdx_eq_none.2 h
theorem checkLive_pass {s : State} {i : Fin 16} (h : s.isAlive i = true) : checkLive s i = none :=
  checkLive_eq_none.2 h

/-- The seven commands' tests find only the three faults of R109. -/
theorem checkCfg_some {s : State} {c : Cause} (h : checkCfg s = some c) : c = .notConfigured ∧ s.valid = false := by
  unfold checkCfg at h; cases hv : s.valid <;> simp_all

theorem checkIdx_some {s : State} {i : Fin 16} {c : Cause} (h : checkIdx s i = some c) :
    c = .badAccumulator ∧ s.cfg.nacc ≤ i.val := by
  unfold checkIdx at h; split at h <;> simp_all

theorem checkLive_some {s : State} {i : Fin 16} {c : Cause} (h : checkLive s i = some c) :
    c = .deadAccumulator ∧ s.isAlive i = false := by
  unfold checkLive at h; cases hv : s.isAlive i <;> simp_all

/-- A command that passes its tests has its effect. -/
theorem checked_pass {l : List (Option Cause)} {f : State → State} {s : State} (h : firstFault l = none) :
    checked l f s = .next (f s) := by simp [checked, h]

/-- A command that fails a test takes the first fault found. -/
theorem checked_fail {l : List (Option Cause)} {f : State → State} {s : State} {c : Cause} (h : firstFault l = some c) :
    checked l f s = .next (s.takeFault c) := by simp [checked, h]

/-- Everything `checked` can do. -/
theorem checked_next {l : List (Option Cause)} {f : State → State} {s t : State} (h : checked l f s = .next t) :
    (∃ c, firstFault l = some c ∧ t = s.takeFault c) ∨ (firstFault l = none ∧ t = f s) := by
  cases hf : firstFault l with
  | none => rw [checked_pass hf] at h; exact .inr ⟨rfl, by injection h with h; exact h.symm⟩
  | some c => rw [checked_fail hf] at h; exact .inl ⟨c, rfl, by injection h with h; exact h.symm⟩

end Sys2Proof.Machine
end

