-- ==== Sys2Proof/Laws/PerInstr.lean ====
section
/-! SUPPORT. Per command: its word has the fixed bits of its row of the opcode map (spec/30_encoding.md rule R48). -/

namespace Sys2Proof.Laws.EncodingRow

open Sys2Proof

/-- The word of `i` matches the row of `i`: (c & mask) = match. -/
def Statement (i : Instr) : Prop := encode i &&& i.mask = i.matchBits

/-- A word in format A against a mask and match, bit by bit. -/
theorem formatA_row {op rd rs fn : Nibble} {m w : CmdWord}
    (h : ∀ i, i < 16 → ((if i < 4 then fn.getLsbD i else if i < 8 then rs.getLsbD (i - 4)
      else if i < 12 then rd.getLsbD (i - 8) else op.getLsbD (i - 12)) && m.getLsbD i) = w.getLsbD i) :
    formatA op rd rs fn &&& m = w :=
  BitVec.eq_of_getLsbD_eq fun i hi => by rw [BitVec.getLsbD_and, formatA_getLsbD, h i hi]

/-- A word in format I against a mask and match, bit by bit. -/
theorem formatI_row {op rd : Nibble} {b : Byte} {m w : CmdWord}
    (h : ∀ i, i < 16 → ((if i < 8 then b.getLsbD i else if i < 12 then rd.getLsbD (i - 8)
      else op.getLsbD (i - 12)) && m.getLsbD i) = w.getLsbD i) :
    formatI op rd b &&& m = w :=
  BitVec.eq_of_getLsbD_eq fun i hi => by rw [BitVec.getLsbD_and, formatI_getLsbD, h i hi]

theorem wrspecWidth : Statement .wrspecWidth :=
  by unfold Statement; decide
theorem wrspecPoly : Statement .wrspecPoly :=
  by unfold Statement; decide
theorem wrspecInit : Statement .wrspecInit :=
  by unfold Statement; decide
theorem wrspecXorout : Statement .wrspecXorout :=
  by unfold Statement; decide
theorem build (r : Bool) : Statement (.build r) :=
  by unfold Statement; cases r <;> decide
theorem rdspecWidth : Statement .rdspecWidth :=
  by unfold Statement; decide
theorem rdspecPoly : Statement .rdspecPoly :=
  by unfold Statement; decide
theorem rdspecInit : Statement .rdspecInit :=
  by unfold Statement; decide
theorem rdspecXorout : Statement .rdspecXorout :=
  by unfold Statement; decide
theorem rdspecRefl : Statement .rdspecRefl :=
  by unfold Statement; decide
theorem rdspecRpoly : Statement .rdspecRpoly :=
  by unfold Statement; decide
theorem rdspecStatus : Statement .rdspecStatus :=
  by unfold Statement; decide
theorem rdtbl (idx : Byte) : Statement (.rdtbl idx) :=
  formatI_row fun i hi => by interval_cases i <;> simp [Instr.mask, Instr.matchBits]
theorem new (rd : Fin 16) : Statement (.new rd) :=
  formatA_row fun i hi => by interval_cases i <;> simp [Instr.mask, Instr.matchBits]
theorem copy (rd rs : Fin 16) : Statement (.copy rd rs) :=
  formatA_row fun i hi => by interval_cases i <;> simp [Instr.mask, Instr.matchBits]
theorem updb (rd : Fin 16) (imm8 : Byte) : Statement (.updb rd imm8) :=
  formatI_row fun i hi => by interval_cases i <;> simp [Instr.mask, Instr.matchBits]
theorem updw (rd : Fin 16) (n : Nat) : Statement (.updw rd n) :=
  formatA_row fun i hi => by interval_cases i <;> simp [Instr.mask, Instr.matchBits]
theorem crcval (rs : Fin 16) : Statement (.crcval rs) :=
  formatA_row fun i hi => by interval_cases i <;> simp [Instr.mask, Instr.matchBits]
theorem digest (rs : Fin 16) : Statement (.digest rs) :=
  formatA_row fun i hi => by interval_cases i <;> simp [Instr.mask, Instr.matchBits]
theorem hexdig (rs : Fin 16) : Statement (.hexdig rs) :=
  formatA_row fun i hi => by interval_cases i <;> simp [Instr.mask, Instr.matchBits]

end Sys2Proof.Laws.EncodingRow
end

