-- ==== Sys2Proof/Laws/Step.lean ====
section
/-! SUPPORT. One inversion for every command: its tests and its effect in one table, and `exec` as `checked` of the two.
Later proofs split on `tests` and `effect`, and never unfold the dispatch. -/

namespace Sys2Proof.Machine

/-- The tests of each command, in the order they are made. -/
def tests (s : State) : Instr → List (Option Cause)
  | .wrspecWidth => []
  | .wrspecPoly => []
  | .wrspecInit => []
  | .wrspecXorout => []
  | .build _ => [checkWidth s]
  | .rdspecWidth => [checkCfg s]
  | .rdspecPoly => [checkCfg s]
  | .rdspecInit => [checkCfg s]
  | .rdspecXorout => [checkCfg s]
  | .rdspecRefl => [checkCfg s]
  | .rdspecRpoly => [checkCfg s]
  | .rdspecStatus => []
  | .rdtbl _ => [checkCfg s]
  | .new rd => [checkCfg s, checkIdx s rd]
  | .copy rd rs => [checkCfg s, checkIdx s rd, checkIdx s rs, checkLive s rs]
  | .updb rd _ => [checkCfg s, checkIdx s rd, checkLive s rd]
  | .updw rd _ => [checkCfg s, checkIdx s rd, checkLive s rd]
  | .crcval rs => [checkCfg s, checkIdx s rs, checkLive s rs]
  | .digest rs => [checkCfg s, checkIdx s rs, checkLive s rs]
  | .hexdig rs => [checkCfg s, checkIdx s rs, checkLive s rs]

/-- The `rdata` of each command that passes its tests. -/
def rdataOf (s : State) : Instr → Word
  | .wrspecWidth => 0
  | .wrspecPoly => 0
  | .wrspecInit => 0
  | .wrspecXorout => 0
  | .build _ => 0
  | .rdspecWidth => s.width.setWidth 64
  | .rdspecPoly => s.poly
  | .rdspecInit => s.init
  | .rdspecXorout => s.xorout
  | .rdspecRefl => flagWord s.refl
  | .rdspecRpoly => s.rpoly
  | .rdspecStatus => statusImage s
  | .rdtbl idx => memRead s.table idx
  | .new _ => 0
  | .copy _ _ => 0
  | .updb _ _ => 0
  | .updw _ _ => 0
  | .crcval rs => outval s rs
  | .digest _ => 0
  | .hexdig _ => 0

/-- The `obytes` of each command that passes its tests. -/
def obytesOf (s : State) : Instr → List Byte
  | .wrspecWidth => []
  | .wrspecPoly => []
  | .wrspecInit => []
  | .wrspecXorout => []
  | .build _ => []
  | .rdspecWidth => []
  | .rdspecPoly => []
  | .rdspecInit => []
  | .rdspecXorout => []
  | .rdspecRefl => []
  | .rdspecRpoly => []
  | .rdspecStatus => []
  | .rdtbl _ => []
  | .new _ => []
  | .copy _ _ => []
  | .updb _ _ => []
  | .updw _ _ => []
  | .crcval _ => []
  | .digest rs => digestBytes (outval s rs) s.width.toNat
  | .hexdig rs => hexBytes (digestBytes (outval s rs) s.width.toNat)

/-- What each command that passes its tests writes, its response apart. -/
def writes (s : State) : Instr → State
  | .wrspecWidth => { s with sWidth := s.wdata }
  | .wrspecPoly => { s with sPoly := s.wdata }
  | .wrspecInit => { s with sInit := s.wdata }
  | .wrspecXorout => { s with sXorout := s.wdata }
  | .build r => { (fillTable (commitSpec r s)).clearAlive with valid := true }
  | .rdspecWidth => s
  | .rdspecPoly => s
  | .rdspecInit => s
  | .rdspecXorout => s
  | .rdspecRefl => s
  | .rdspecRpoly => s
  | .rdspecStatus => s
  | .rdtbl _ => s
  | .new rd => (s.setX rd s.init).setAlive rd
  | .copy rd rs => (s.setX rd (s.getX rs)).setAlive rd
  | .updb rd b => s.setX rd (upd1 s (s.getX rd) b)
  | .updw rd n => s.setX rd (updLanes s (s.getX rd) n)
  | .crcval _ => s
  | .digest _ => s
  | .hexdig _ => s

/-- Every meaning is its tests, then its writes and one response. -/
theorem exec_eq_checked (i : Instr) (s : State) :
    exec i s = checked (tests s i) (fun s => (writes s i).respond (rdataOf s i) (obytesOf s i)) s := by
  cases i <;> rfl

/-- Everything a command can do: the first fault found is taken, or, with none, its writes and its response happen. -/
theorem exec_cases {i : Instr} {s t : State} (h : exec i s = .next t) :
    (∃ c, firstFault (tests s i) = some c ∧ t = s.takeFault c) ∨
    (firstFault (tests s i) = none ∧ t = (writes s i).respond (rdataOf s i) (obytesOf s i)) :=
  checked_next (exec_eq_checked i s ▸ h)

/-- A command whose tests all pass. -/
theorem exec_pass {i : Instr} {s : State} (h : firstFault (tests s i) = none) :
    exec i s = .next ((writes s i).respond (rdataOf s i) (obytesOf s i)) := by
  rw [exec_eq_checked]; exact checked_pass h

/-- A command one of whose tests fails. -/
theorem exec_fail {i : Instr} {s : State} {c : Cause} (h : firstFault (tests s i) = some c) :
    exec i s = .next (s.takeFault c) := by
  rw [exec_eq_checked]; exact checked_fail h

/-- The step with nothing presented. -/
theorem step_idle {s : State} (h : s.input = []) : step s = .next s := by simp [step, h]

/-- The step on a word that is no command. -/
theorem step_illegal {s : State} {c : PortCmd} {rest : List PortCmd} {e : Illegal}
    (h : s.input = c :: rest) (hd : decode c.cmd = .error e) :
    step s = .next ((s.accept c rest).takeFault .illegalCommand) := by simp [step, h, hd]

/-- Everything a step can do. -/
theorem step_cases {s t : State} (h : step s = .next t) :
    (s.input = [] ∧ t = s) ∨
    (∃ c rest e, s.input = c :: rest ∧ decode c.cmd = .error e ∧
      t = (s.accept c rest).takeFault .illegalCommand) ∨
    (∃ c rest i, s.input = c :: rest ∧ decode c.cmd = .ok i ∧ exec i (s.accept c rest) = .next t) := by
  unfold step at h
  split at h
  · rename_i hi; injection h with h; exact .inl ⟨hi, h.symm⟩
  · rename_i c rest hi
    split at h
    · rename_i i hd; exact .inr (.inr ⟨c, rest, i, hi, hd, h⟩)
    · rename_i e hd; injection h with h; exact .inr (.inl ⟨c, rest, e, hi, hd, h.symm⟩)

end Sys2Proof.Machine
end

