-- ==== Sys2Proof/Tests/Slice0.lean ====
section
/-! SUPPORT. Tests whose expected values are the spec's (spec/95_test_vectors.md; the vector's name stands before each
test) or worked out from its encodings by hand, and one witness for every statement that has hypotheses. -/

namespace Sys2Proof.Tests

open Sys2Proof Sys2Proof.Machine Sys2Proof.Spec

/-! ## Small states -/

/-- The state a command leaves; every command leaves one. -/
def after (i : Instr) (s : State) : State :=
  match exec i s with
  | .next t => t
  | .fault _ => s
  | .refused _ => s

/-- The last response of a state. -/
def answer (s : State) : Option Resp := s.responses.getLast?

/-- A staged specification on the reset machine. -/
def staged (w p i x : Word) : State := { State.reset with sWidth := w, sPoly := p, sInit := i, sXorout := x }

/-- An active specification with the table BUILD makes of it, and a0 live with the value `a0`. -/
def active (w : BitVec 7) (p rp i x : Word) (r : Bool) (a0 : Word) : State :=
  let s : State := { State.reset with width := w, poly := p, rpoly := rp, init := i, xorout := x, refl := r, valid := true }
  { s with table := memFill [] (tblentry s), x := s.x.set 0 a0, alive := s.alive.set 0 true }

/-- (8, 07, N, 0, 0) with x[0] = `a0`. -/
def crc8 (a0 : Word) : State := active 8 0x07 0xE0 0 0 false a0

/-- (32, 04C11DB7, R, FFFFFFFF, FFFFFFFF) with x[0] = `a0`. -/
def crc32 (a0 : Word) : State := active 32 0x04C11DB7 0xEDB88320 0xFFFFFFFF 0xFFFFFFFF true a0

/-- (16, 1021, N, FFFF, 0) with x[0] = `a0`. -/
def crc16 (a0 : Word) : State := active 16 0x1021 0x8408 0xFFFF 0 false a0

/-- The nine bytes of M9 (R13). -/
def m9 : List Byte := [0x31, 0x32, 0x33, 0x34, 0x35, 0x36, 0x37, 0x38, 0x39]

/-! ## WellFormed: the one check refuses its ill-formed term -/

theorem test_wf_refuses_count_nine : Instr.wf (.updw 0 9) = false := by decide
theorem test_wf_admits_count_eight : Instr.wf (.updw 15 8) = true := by decide

/-! ## Decode: a word of every row written out from its pattern (R48), and 2.7 -/

theorem test_decode_wrspec_width : decode 0b0001000000000000 = .ok .wrspecWidth := by decide
theorem test_decode_wrspec_poly : decode 0b0001000100000000 = .ok .wrspecPoly := by decide
theorem test_decode_wrspec_init : decode 0b0001001000000000 = .ok .wrspecInit := by decide
theorem test_decode_wrspec_xorout : decode 0b0001001100000000 = .ok .wrspecXorout := by decide
theorem test_decode_build_n : decode 0b0010000000000000 = .ok (.build false) := by decide
theorem test_decode_build_r : decode 0b0010000000000001 = .ok (.build true) := by decide
theorem test_decode_rdspec_width : decode 0b0011000000000000 = .ok .rdspecWidth := by decide
theorem test_decode_rdspec_poly : decode 0b0011000100000000 = .ok .rdspecPoly := by decide
theorem test_decode_rdspec_init : decode 0b0011001000000000 = .ok .rdspecInit := by decide
theorem test_decode_rdspec_xorout : decode 0b0011001100000000 = .ok .rdspecXorout := by decide
theorem test_decode_rdspec_refl : decode 0b0011010000000000 = .ok .rdspecRefl := by decide
theorem test_decode_rdspec_rpoly : decode 0b0011010100000000 = .ok .rdspecRpoly := by decide
theorem test_decode_rdspec_status : decode 0b0011011000000000 = .ok .rdspecStatus := by decide
theorem test_decode_rdtbl : decode 0b0100000010100101 = .ok (.rdtbl 0xA5) := by decide
theorem test_decode_new : decode 0b0101111100000000 = .ok (.new 15) := by decide
theorem test_decode_copy : decode 0b0110000110100000 = .ok (.copy 1 10) := by decide
theorem test_decode_updb : decode 0b0111001000111001 = .ok (.updb 2 0x39) := by decide
theorem test_decode_updw : decode 0b1000001100001000 = .ok (.updw 3 8) := by decide
theorem test_decode_crcval : decode 0b1001000011110000 = .ok (.crcval 15) := by decide
theorem test_decode_digest : decode 0b1010000000110000 = .ok (.digest 3) := by decide
theorem test_decode_hexdig : decode 0b1011000000100000 = .ok (.hexdig 2) := by decide
theorem test_decode_illegal_words :
    ([0x1400, 0x1001, 0x2002, 0x2003, 0x2100, 0x3700, 0x3F00, 0x3601, 0x4100, 0x5001, 0x5010, 0x6011, 0x8009, 0x800F,
      0x8010, 0x9100, 0x9001, 0xA100, 0xA001, 0xB200, 0xB00F, 0x0000, 0x0FFF, 0xC123, 0xD000, 0xE000, 0xFFFF].map
      fun c => (decode c).toOption) = List.replicate 27 none := by decide
theorem test_table_word_updw : decodeTableWord 16 0x8308 = some (.updw 3 8) := by decide
theorem test_table_word_illegal : decodeTableWord 16 0x8009 = none := by decide

/-! ## The units (2.1, 2.2, 2.3) -/

/-- valid_width of 2.1. -/
theorem test_valid_width :
    ([0, 1, 7, 8, 9, 12, 16, 24, 31, 32, 33, 40, 48, 56, 63, 64, 65, 72, 128, 0xFFFFFFFFFFFFFFFF].map validWidth) =
    [false, false, false, true, false, false, true, true, false, true, false, true, true, true, false, true, false,
      false, false, false] := by decide
/-- RF1, RF5, RF6, RF7. -/
theorem test_reflect : reflect 0x04C11DB7 32 = 0xEDB88320 ∧ reflect 0x42F0E1EBA9EA3693 64 = 0xC96C5795D7870F42 ∧
    reflect 0x0004820009 40 = 0x9000412000 ∧ reflect 0x11021 16 = 0x8408 := by decide
/-- S1, S2, S4, S6, S7, S8. -/
theorem test_gf2_steps : gf2StepMsb 0x07 8 0x80 = 0x07 ∧ gf2StepMsb 0x07 8 0x40 = 0x80 ∧
    gf2StepMsb 0x04C11DB7 32 0xFFFFFFFF = 0xFB3EE249 ∧ gf2StepLsb 0xEDB88320 1 = 0xEDB88320 ∧
    gf2StepLsb 0xEDB88320 2 = 1 ∧ gf2StepLsb 0xEDB88320 0xFFFFFFFF = 0x92477CDF := by decide
/-- RT1, RT2, RT4, and T8 at index FF (width 64). -/
theorem test_gf2_reduce8 : gf2Reduce8Lsb 0x01 0xEDB88320 = 0x77073096 ∧ gf2Reduce8Msb 0x80 0x07 8 = 0x89 ∧
    gf2Reduce8Msb 0xFF 0x1021 16 = 0x1EF0 ∧ gf2Reduce8Msb 0xFF 0x42F0E1EBA9EA3693 64 = 0x9AFCE626CE85B507 := by decide
/-- B1 (reflected) and B8 (non-reflected: the top byte, not the low byte). -/
theorem test_upd1 : upd1 (crc32 0) 0xFFFFFFFF 0x31 = 0x7C231048 ∧ upd1 (crc16 0) 0x2672 0x32 = 0x20B5 := by
  decide +kernel
/-- V1, V3, E5: the check values of crc-32, crc-8 and (16, 1021, N, FFFF, 0). -/
theorem test_check_value_crc32 : m9.foldl (upd1 (crc32 0)) 0xFFFFFFFF ^^^ 0xFFFFFFFF = 0xCBF43926 := by decide +kernel
theorem test_check_value_crc8 : m9.foldl (upd1 (crc8 0)) 0 = 0xF4 := by decide +kernel
theorem test_check_value_crc16 : m9.foldl (upd1 (crc16 0)) 0xFFFF = 0x29B1 := by decide +kernel

/-! ## One step of every command -/

/-- Examples of R67 to R70, in a state with VALID = 0. -/
theorem test_wrspec_width : (after .wrspecWidth { State.reset with wdata := 0x20 }).sWidth = 0x20 := by decide
theorem test_wrspec_poly : (after .wrspecPoly { State.reset with wdata := 0x04C11DB7 }).sPoly = 0x04C11DB7 := by decide
theorem test_wrspec_init : (after .wrspecInit { State.reset with wdata := 0xFFFFFFFF }).sInit = 0xFFFFFFFF := by decide
theorem test_wrspec_xorout : (after .wrspecXorout { State.reset with wdata := 0xABCDFFFF }).sXorout = 0xABCDFFFF := by
  decide
/-- M1: masking at BUILD, RPOLY computed although REFL = 0. -/
theorem test_build_masks : let t := after (.build false) (staged 0x10 0x11021 0xABCDFFFF 0)
    t.width = 16 ∧ t.poly = 0x1021 ∧ t.init = 0xFFFF ∧ t.xorout = 0 ∧ t.refl = false ∧ t.rpoly = 0x8408 ∧
    t.valid = true := by decide
/-- T9: the table of a reflected BUILD at width 64, at 01 and FF. -/
theorem test_build_table : let t := after (.build true) (staged 0x40 0x42F0E1EBA9EA3693 0 0)
    memRead t.table 0x01 = 0xB32E4CBE03A75F6F ∧ memRead t.table 0xFF = 0xE0ADA17364673F59 := by decide +kernel
/-- FV2, FV3: BUILD straight after reset, and with width 12. -/
theorem test_build_invalid : answer (after (.build true) State.reset) = some ⟨2, 0, []⟩ ∧
    answer (after (.build false) (staged 12 7 0 0)) = some ⟨2, 0, []⟩ := by decide
/-- R73 to R78 on the crc-32 configuration. -/
theorem test_rdspec_width : answer (after .rdspecWidth (crc32 0)) = some ⟨0, 0x20, []⟩ := by decide
theorem test_rdspec_poly : answer (after .rdspecPoly (crc32 0)) = some ⟨0, 0x04C11DB7, []⟩ := by decide
theorem test_rdspec_init : answer (after .rdspecInit (crc32 0)) = some ⟨0, 0xFFFFFFFF, []⟩ := by decide
theorem test_rdspec_xorout : answer (after .rdspecXorout (crc32 0)) = some ⟨0, 0xFFFFFFFF, []⟩ := by decide
theorem test_rdspec_refl : answer (after .rdspecRefl (crc32 0)) = some ⟨0, 1, []⟩ := by decide
theorem test_rdspec_rpoly : answer (after .rdspecRpoly (crc32 0)) = some ⟨0, 0xEDB88320, []⟩ := by decide
/-- STATUS images of 2.1: VALID with a0 live, and with all five FAULTS bits. -/
theorem test_rdspec_status : answer (after .rdspecStatus (crc8 0)) = some ⟨0, 0x101, []⟩ ∧
    answer (after .rdspecStatus { crc8 0 with faults := ⟨true, true, true, true, true⟩ }) = some ⟨0, 0x13F, []⟩ := by
  decide
/-- T3 at FF, and FV5. -/
theorem test_rdtbl : answer (after (.rdtbl 0xFF) (crc8 0)) = some ⟨0, 0xF3, []⟩ ∧
    answer (after (.rdtbl 0) State.reset) = some ⟨3, 0, []⟩ := by decide +kernel
/-- Example of R101, and FV8. -/
theorem test_new : (after (.new 1) (crc32 0)).getX 1 = 0xFFFFFFFF ∧ (after (.new 1) (crc32 0)).isAlive 1 = true := by
  decide
theorem test_new_bad : answer (after (.new 4) (crc8 0)) = some ⟨4, 0, []⟩ := by decide
/-- Example of R102, and FV10: rd is tested before rs. -/
theorem test_copy : (after (.copy 1 0) (crc8 0xC2)).getX 1 = 0xC2 ∧ (after (.copy 1 0) (crc8 0xC2)).getX 0 = 0xC2 := by
  decide
theorem test_copy_faults : answer (after (.copy 5 1) (crc8 0)) = some ⟨4, 0, []⟩ ∧
    answer (after (.copy 1 2) (crc8 0)) = some ⟨5, 0, []⟩ := by decide
/-- P2 step 15 (C2 to B3), and FV4: NotConfigured before BadAccumulator. -/
theorem test_updb : (after (.updb 0 0xFF) (crc8 0xC2)).getX 0 = 0xB3 := by decide +kernel
theorem test_updb_fault : answer (after (.updb 9 0) State.reset) = some ⟨3, 0, []⟩ := by decide
/-- Example of R104, and FV13: the checks are made even for n = 0. -/
theorem test_updw : (after (.updw 0 4) { crc8 0 with wdata := 0xFF34333231 }).getX 0 = 0xC2 := by decide +kernel
theorem test_updw_fault : answer (after (.updw 3 0) (crc8 0)) = some ⟨5, 0, []⟩ := by decide
/-- X1. -/
theorem test_crcval : answer (after (.crcval 0) (crc32 0x340BC6D9)) = some ⟨0, 0xCBF43926, []⟩ := by decide
theorem test_digest : answer (after (.digest 0) (crc32 0x340BC6D9)) = some ⟨0, 0, [0xCB, 0xF4, 0x39, 0x26]⟩ := by decide
theorem test_hexdig : answer (after (.hexdig 0) (crc32 0x340BC6D9)) =
    some ⟨0, 0, [0x43, 0x42, 0x46, 0x34, 0x33, 0x39, 0x32, 0x36]⟩ := by decide
/-- X4: the leading zero is kept. -/
theorem test_hexdig_leading_zero : answer (after (.hexdig 0) (crc16 0x0F78)) =
    some ⟨0, 0, [0x30, 0x46, 0x37, 0x38]⟩ := by decide

/-! ## The step -/

/-- FV16: word 9100 is illegal in every state, even right after reset. -/
theorem test_step_illegal : step (State.reset.withFetchWord 16 0x9100) =
    .next { State.reset with faults := ⟨true, false, false, false, false⟩, responses := [⟨1, 0, []⟩] } := by rfl
/-- The example of R79: RDSPEC STATUS straight after reset answers 0. -/
theorem test_step_status : step (State.reset.withFetchWord 16 0x3600) =
    .next { State.reset with responses := [⟨0, 0, []⟩] } := by rfl

/-! ## Witnesses: concrete states and operands that meet the hypotheses of each statement -/

theorem witness_DecodeReadsBackEncode : (Instr.updw 15 8).wf = true := by decide
theorem witness_EncodeRestoresLegalWord : decode 0x8F08 = .ok (.updw 15 8) := by decide
theorem witness_WordsOfTheAssemblerTable : 0 ≤ 8 ∧ 8 ≤ 8 ∧ ¬ 9 ≤ 8 := by decide
theorem witness_OpcodeMapDecidesDecoding : matchesRow 0x8008 (0xF0F0, 0x8000) ∧ decode 0x8008 = .ok (.updw 0 8) := by
  unfold matchesRow; decide
/-- The clause at its boundary: n = 9 matches mask and match, and is no row's word. -/
theorem witness_OpcodeMapDecidesDecoding_count : ¬ matchesRow 0x8009 (0xF0F0, 0x8000) ∧
    (0x8009 : CmdWord) &&& 0xF0F0 = 0x8000 := by unfold matchesRow; decide

/-- One command on the port: UPDB a0, 0x31. -/
def presented : State := { crc8 0 with input := [⟨0x7031, 5⟩] }

theorem witness_StepRunsPresentedCommand : presented.input = [⟨0x7031, 5⟩] ∧
    decode 0x7031 = .ok (.updb 0 0x31) := ⟨rfl, by decide⟩
theorem witness_IllegalWordsRaiseIllegalCommand : illegalWord 0x8009 ∧ ¬ illegalWord 0x8008 ∧ illegalWord 0x0000 ∧
    illegalWord 0x3700 ∧ ¬ illegalWord 0x3600 ∧ illegalWord 0xFFFF ∧ ¬ illegalWord 0x7FFF := by
  unfold illegalWord; omega
theorem witness_PresentedWordRunsNext : State.reset.input = [] ∧ decodeTableWord 16 0x7FFF = some (.updb 15 0xFF) := by
  decide
theorem witness_OneResponsePerCommand : presented.input = ⟨0x7031, 5⟩ :: [] := rfl
theorem witness_RdspecReadsActiveSpec : (crc8 0).valid = true ∧ State.reset.valid = false := by decide
theorem witness_StatusImageLayout : (crc8 0).cfg.wf ∧ Config.wf ⟨1⟩ ∧ Config.wf ⟨16⟩ := by decide
theorem witness_WidthsAdmittedAndValuesMasked : Admitted 8 ∧ Admitted 64 := by decide
theorem witness_ReflectReversesLowBits : 1 ≤ 64 ∧ 64 ≤ 64 := by decide
theorem witness_ReflectLaws : (0x4000 : Word).toNat < 2 ^ (16 - 1) ∧ (0x8000 : Word).toNat < 2 ^ 16 := by decide
theorem witness_DivisionStepsOnNaturals : Admitted 64 ∧ (0xFF : Word).toNat < 2 ^ 8 ∧ Admitted 8 := by decide
theorem witness_UnitsAreLinear : Admitted 8 := by decide
theorem witness_ReflectedTableIsMirrorImage : Admitted 64 ∧ (0xFFFFFFFFFFFFFFFF : Word).toNat < 2 ^ 64 := by decide

/-- The polynomial of a word. -/
theorem witness_IsPoly_one : IsPoly 1 (1 : Polynomial (ZMod 2)) := by
  intro i
  rw [show ((1 : Word)) = 1#64 from rfl, BitVec.getLsbD_one, Polynomial.coeff_one]
  by_cases h : i = 0 <;> simp [h]

theorem witness_TableEntryIsPolynomialRemainder :
    Admitted 8 ∧ (1 : Word).toNat < 2 ^ 8 ∧ IsPoly 1 (1 : Polynomial (ZMod 2)) ∧
    IsPoly (byteWord 1) (1 : Polynomial (ZMod 2)) :=
  ⟨by decide, by decide, witness_IsPoly_one, (show byteWord 1 = 1 by decide) ▸ witness_IsPoly_one⟩

theorem witness_BuildCommitsSpecAndFillsTable : (staged 64 7 0 0).sWidth.toNat ∈ [8, 16, 24, 32, 40, 48, 56, 64] ∧
    (staged 8 7 0 0).sWidth.toNat ∈ [8, 16, 24, 32, 40, 48, 56, 64] ∧ Memory.wf (staged 8 7 0 0).table ∧
    (staged 72 7 0 0).sWidth.toNat ∉ [8, 16, 24, 32, 40, 48, 56, 64] ∧ Memory.wf (staged 72 7 0 0).table := by decide
theorem witness_RdtblReadsOneEntry : (crc8 0).valid = true ∧ State.reset.valid = false := by decide
theorem witness_MemWriteSetsOneEntry : Memory.wf [(0, 5), (255, 7)] ∧ (3 : Byte) ≠ 255 := by decide
theorem witness_RebuildChangesNothing : Memory.wf (staged 8 7 0 0).table ∧ validWidth (staged 8 7 0 0).sWidth = true ∧
    exec (.build true) (staged 8 7 0 0) = .next (after (.build true) (staged 8 7 0 0)) :=
  ⟨by decide, by decide, rfl⟩
theorem witness_BuildDiscardsAccumulators : validWidth (staged 8 7 0 0).sWidth = true ∧
    exec (.build false) (staged 8 7 0 0) = .next (after (.build false) (staged 8 7 0 0)) ∧
    (3 : Fin 16).val < (staged 8 7 0 0).cfg.nacc := ⟨by decide, rfl, by decide⟩
theorem witness_NewLoadsInit : (crc8 0).valid = true ∧ (3 : Fin 16).val < (crc8 0).cfg.nacc := by decide
theorem witness_CopyDuplicatesAccumulator : (crc8 0).valid = true ∧ (3 : Fin 16).val < (crc8 0).cfg.nacc ∧
    (0 : Fin 16).val < (crc8 0).cfg.nacc ∧ (crc8 0).isAlive 0 = true := by decide
theorem witness_live_accumulator : (crc8 0).valid = true ∧ (0 : Fin 16).val < (crc8 0).cfg.nacc ∧
    (crc8 0).isAlive 0 = true ∧ Admitted (crc8 0).width.toNat := by decide
theorem witness_UpdbProcessesOneByte : (crc32 7).valid = true ∧ (0 : Fin 16).val < (crc32 7).cfg.nacc ∧
    (crc32 7).isAlive 0 = true ∧ Admitted (crc32 7).width.toNat := by decide
theorem witness_UpdwProcessesLanesInOrder : 8 ≤ 8 ∧ (crc16 7).valid = true ∧ (0 : Fin 16).val < (crc16 7).cfg.nacc ∧
    (crc16 7).isAlive 0 = true ∧ Admitted (crc16 7).width.toNat := by decide
theorem witness_StreamingEqualsOneMessage : ∀ c ∈ [Chunk.lanes 0 1, .lanes 8 2, .byte 0x39 3], c.fits := by
  intro c h; simp at h; rcases h with rfl | rfl | rfl <;> simp [Chunk.fits]
theorem witness_StreamingEqualsOneMessage_input :
    ({ crc8 0 with input := [⟨0x8000, 1⟩, ⟨0x8008, 2⟩, ⟨0x7039, 3⟩] } : State).input =
      [Chunk.lanes 0 1, .lanes 8 2, .byte 0x39 3].map (Chunk.onPort 0) ++ [] := by rfl

/-- The entries of the crc-8 table fit the width (the whole table T3). -/
theorem crc8_entries_lt (k : Byte) : (tblentry (crc8 0) k).toNat < 2 ^ 8 := by
  have h : ∀ j : Fin 256, (gf2Reduce8Msb (BitVec.ofFin j) 0x07 8).toNat < 2 ^ 8 := by decide +kernel
  exact h k.toFin

/-- The table of the crc-8 state holds the entries of its spec. -/
theorem crc8_table (a : Word) (k : Byte) : memRead (crc8 a).table k = tblentry (crc8 a) k :=
  memRead_memFill (by decide) _ k

/-- The crc-8 state is one a run reaches: its spec invariants hold. -/
theorem crc8_spec (a : Word) : SpecInv (crc8 a) where
  width_admitted := by show Admitted 8; decide
  poly_lt := by show (0x07 : Word).toNat < 2 ^ 8; decide
  init_lt := by show (0 : Word).toNat < 2 ^ 8; decide
  xorout_lt := by show (0 : Word).toNat < 2 ^ 8; decide
  rpoly_eq := by show (0xE0 : Word) = reflect 0x07 8; decide
  rpoly_lt := by show (0xE0 : Word).toNat < 2 ^ 8; decide
  table_eq := crc8_table a
  table_lt := fun k => by rw [crc8_table]; exact crc8_entries_lt k

/-- The crc-8 state meets every invariant, with a live accumulator. -/
theorem witness_StepKeepsSpecInvariants : (crc8 0xC2).Inv where
  cfg_wf := by decide
  table_wf := memFill_wf (by decide) _
  spec := fun _ => crc8_spec 0xC2
  alive_valid := fun _ _ => rfl
  alive_exists := fun i => by
    have h : ∀ i : Fin 16, (crc8 0xC2).isAlive i = true → i.val < 4 := by decide
    exact h i
  x_lt := fun i => by
    have h : ∀ i : Fin 16, (crc8 0xC2).isAlive i = true → ((crc8 0xC2).getX i).toNat < 2 ^ 8 := by decide
    exact h i

/-- The entries of the crc-32 table fit the width. -/
theorem crc32_entries_lt (k : Byte) : (tblentry (crc32 0) k).toNat < 2 ^ 32 := by
  have h : ∀ j : Fin 256, (gf2Reduce8Lsb (BitVec.ofFin j) 0xEDB88320).toNat < 2 ^ 32 := by decide +kernel
  exact h k.toFin

/-- The table of the crc-32 state holds the entries of its spec. -/
theorem crc32_table (k : Byte) : memRead (crc32 0).table k = tblentry (crc32 0) k := memRead_memFill (by decide) _ k

/-- The same for a reflected spec, crc-32. -/
theorem crc32_spec : SpecInv (crc32 0) where
  width_admitted := by show Admitted 32; decide
  poly_lt := by show (0x04C11DB7 : Word).toNat < 2 ^ 32; decide
  init_lt := by show (0xFFFFFFFF : Word).toNat < 2 ^ 32; decide
  xorout_lt := by show (0xFFFFFFFF : Word).toNat < 2 ^ 32; decide
  rpoly_eq := by show (0xEDB88320 : Word) = reflect 0x04C11DB7 32; decide
  rpoly_lt := by show (0xEDB88320 : Word).toNat < 2 ^ 32; decide
  table_eq := crc32_table
  table_lt := fun k => by rw [crc32_table]; exact crc32_entries_lt k

theorem witness_BuiltTableEntries_reflected : SpecInv (crc32 0) ∧ (crc32 0).refl = true := ⟨crc32_spec, rfl⟩
theorem witness_TableUpdateEqualsBitSerialDivision_reflected : SpecInv (crc32 0) ∧ (crc32 0).refl = true ∧
    (0xFFFFFFFF : Word).toNat < 2 ^ (crc32 0).width.toNat := ⟨crc32_spec, rfl, by decide⟩
theorem witness_BuiltTableEntries : SpecInv (crc8 0) ∧ (crc8 0).refl = false := ⟨crc8_spec 0, rfl⟩
theorem witness_TableUpdateEqualsBitSerialDivision : SpecInv (crc8 0) ∧ (0xFF : Word).toNat < 2 ^ (crc8 0).width.toNat :=
  ⟨crc8_spec 0, by decide⟩
theorem witness_DigestPacksTheCrcValue : (crc8 0xC2).Inv ∧ (crc8 0xC2).isAlive 0 = true :=
  ⟨witness_StepKeepsSpecInvariants, by decide⟩
theorem witness_CrcvalDigestHexdig : (crc32 0x340BC6D9).valid = true ∧ (0 : Fin 16).val < (crc32 0x340BC6D9).cfg.nacc ∧
    (crc32 0x340BC6D9).isAlive 0 = true := by decide
theorem witness_NewThenReadGivesInitXorXorout : (crc32 0).valid = true ∧ (3 : Fin 16).val < (crc32 0).cfg.nacc := by
  decide
theorem witness_CommandWritesOnlyItsAccumulator : exec (.new 1) (crc8 0xC2) = .next (after (.new 1) (crc8 0xC2)) ∧
    destination (.new 1) ≠ some 0 := ⟨rfl, by decide⟩
theorem witness_ReadsDoNotMutate : readsOnly (.digest 0) = true ∧
    exec (.digest 0) (crc8 0xC2) = .next (after (.digest 0) (crc8 0xC2)) := ⟨rfl, rfl⟩
/-- The three admission clauses: before BUILD; index 4 where four accumulators exist; index 3, dead. NEW reads no
accumulator, so its third clause is about the commands that do. -/
theorem witness_AdmissionChecked : State.reset.valid = false ∧ (crc8 0).valid = true ∧
    (∀ i ∈ [Instr.new 4, .copy 4 0, .copy 0 4, .updb 4 0, .updw 4 8, .crcval 4, .digest 4, .hexdig 4],
      ∃ j ∈ usedIndices i, (crc8 0).cfg.nacc ≤ j.val) ∧
    ∀ i ∈ [Instr.copy 3 3, .updb 3 0, .updw 3 0, .crcval 3, .digest 3, .hexdig 3],
      (∀ j ∈ usedIndices i, j.val < (crc8 0).cfg.nacc) ∧ ∃ j ∈ readIndices i, (crc8 0).isAlive j = false := by
  decide
/-- Both outcomes of the fault statements: a command that completes, one that is squashed, and an illegal word. -/
theorem witness_FaultingCommandIsSquashed :
    (∃ t, step presented = .next t ∧ answer t = some ⟨0, 0, []⟩) ∧
    (∃ t, step (State.reset.withFetchWord 16 0x5400) = .next t ∧ answer t = some ⟨3, 0, []⟩) ∧
    ∃ t, step (State.reset.withFetchWord 16 0x9100) = .next t ∧ answer t = some ⟨1, 0, []⟩ :=
  ⟨⟨_, rfl, rfl⟩, ⟨_, rfl, rfl⟩, ⟨_, rfl, rfl⟩⟩
/-- The priority at its boundaries: index 3 exists, index 4 does not, index 3 is dead. -/
theorem witness_FaultCausesInFixedPriority :
    answer (after (.copy 4 3) (crc8 0)) = some ⟨4, 0, []⟩ ∧ answer (after (.copy 3 3) (crc8 0)) = some ⟨5, 0, []⟩ ∧
    answer (after (.copy 4 3) State.reset) = some ⟨3, 0, []⟩ ∧ answer (after (.copy 3 0) (crc8 0)) = some ⟨0, 0, []⟩ := by
  decide
theorem witness_ValidAndFaultsAreSticky : step State.reset = .next State.reset ∧ State.reset.valid = false := ⟨rfl, rfl⟩
theorem witness_CleanStatusesMeanCleanFaults : State.reset.RecordAgrees ∧ step State.reset = .next State.reset :=
  ⟨⟨fun _ r h => by simp [State.reset, State.resetOf] at h, fun _ c => by cases c <;> rfl⟩, rfl⟩
theorem witness_OnlyBuildWritesSpecAndTable : (∀ r, Instr.wrspecPoly ≠ .build r) ∧
    exec .wrspecPoly (crc8 0) = .next (after .wrspecPoly (crc8 0)) := ⟨by decide, rfl⟩
theorem witness_OnlyWrspecWritesStaging : exec .wrspecPoly (crc8 0) = .next (after .wrspecPoly (crc8 0)) ∧
    Instr.wrspecPoly ≠ .wrspecWidth := ⟨rfl, by decide⟩
theorem witness_UnusedDataOperandIsIgnored : usesWdata (.build true) = false ∧
    (0xFF34333231 : Word).toNat % 2 ^ (8 * 4) = (0x34333231 : Word).toNat % 2 ^ (8 * 4) := by decide
theorem witness_ResetMeetsSpecInvariants : Config.default.wf := by decide

/-- Two reset states that differ in every unspecified register and in the table. -/
theorem witness_UnspecifiedStateIsUnobservable : SameView State.reset
    { State.reset with width := 9, poly := 3, refl := true, init := 5, xorout := 6, rpoly := 7,
                       x := Vector.replicate 16 8, table := [(0, 9)] } where
  sWidth := rfl
  sPoly := rfl
  sInit := rfl
  sXorout := rfl
  valid := rfl
  alive := rfl
  faults := rfl
  cfg := rfl
  wdata := rfl
  input := rfl
  responses := rfl
  left_wf := by decide
  right_wf := by decide
  spec := fun h => by cases h
  x := fun i h => by
    have : ∀ i : Fin 16, State.reset.isAlive i = false := by decide
    rw [this i] at h; cases h

end Sys2Proof.Tests
end

section
/-!
PROOFS of the family `00_scope.md`: which meaning a step gives the presented word.
-/
namespace Sys2Proof.Machine

/-- The step on a word that is a command: its meaning, on the state that has accepted it. With `step_idle` and
`step_illegal` this is all of `step`. -/
theorem step_legal {s : State} {c : PortCmd} {rest : List PortCmd} {i : Instr}
    (h : s.input = c :: rest) (hd : decode c.cmd = .ok i) :
    step s = exec i (s.accept c rest) := by simp [step, h, hd]

/-- Settles O6: the accepted state of `step_legal` is, by definition of `State.accept`, the state the statement writes out. -/
theorem stepRunsPresentedCommand : Obligations.StepRunsPresentedCommand := by
  intro s c rest i hinput hdecode
  exact step_legal hinput hdecode

end Sys2Proof.Machine
end

section
/-!
PROOFS of the family `10_state.md`: what a step leaves unchanged, the invariants of the spec, the STATUS image, and
that what the spec leaves unspecified is unobservable.
-/
namespace Sys2Proof.Machine

open Sys2Proof.Spec

/-! ## What a step does, in terms of `tests` and `writes` -/

/-- The tests of a command pass exactly under the conditions of the admission checks (R92, R109, R121). -/
theorem tests_pass_iff {s : State} {i : Instr} : firstFault (tests s i) = none ↔
    (∀ r, i = .build r → Admitted s.sWidth.toNat) ∧ (needsSpec i = true → s.valid = true ∧ indicesReady s i) := by
  cases i <;>
    simp [tests, firstFault_eq_none, checkWidth, validWidth, needsSpec, indicesReady, usedIndices, readIndices,
      checkCfg_eq_none, checkIdx_eq_none, checkLive_eq_none, and_assoc]

/-- Everything a step can do: nothing, with nothing presented; one fault; or the writes and the response of the
command presented. -/
theorem step_outcomes {s t : State} (h : step s = .next t) :
    t = s ∨
    (∃ c rest cause, s.input = c :: rest ∧ t = (s.accept c rest).takeFault cause) ∨
    (∃ c rest i v bs, s.input = c :: rest ∧ decode c.cmd = .ok i ∧ firstFault (tests (s.accept c rest) i) = none ∧
      t = (writes (s.accept c rest) i).respond v bs) := by
  obtain ⟨-, rfl⟩ | ⟨c, rest, e, hin, -, rfl⟩ | ⟨c, rest, i, hin, hd, hx⟩ := step_cases h
  · exact .inl rfl
  · exact .inr (.inl ⟨c, rest, _, hin, rfl⟩)
  · obtain ⟨cause, -, rfl⟩ | ⟨hp, rfl⟩ := exec_cases hx
    · exact .inr (.inl ⟨c, rest, cause, hin, rfl⟩)
    · exact .inr (.inr ⟨c, rest, i, _, _, hin, hd, hp, rfl⟩)

/-! ## What the writes of a command leave unchanged -/

@[simp] theorem writes_faults (s : State) (i : Instr) : (writes s i).faults = s.faults := by cases i <;> rfl
@[simp] theorem writes_cfg (s : State) (i : Instr) : (writes s i).cfg = s.cfg := by cases i <;> rfl

/-- The state `t` with the committed part of `s`: the active spec, VALID and the table. -/
def State.withCommittedOf (t s : State) : State :=
  { t with width := s.width, poly := s.poly, refl := s.refl, init := s.init, xorout := s.xorout, rpoly := s.rpoly,
           valid := s.valid, table := s.table }

/-- No command but BUILD writes the committed part (R16, R31, R94). -/
theorem writes_withCommittedOf {i : Instr} (hi : ∀ r, i ≠ .build r) (s : State) :
    (writes s i).withCommittedOf s = writes s i := by
  cases i with
  | build r => exact absurd rfl (hi r)
  | _ => rfl

/-- A staging register is written by the WRSPEC that names it alone (R18). -/
theorem writes_staging (s : State) (i : Instr) :
    (i ≠ .wrspecWidth → (writes s i).sWidth = s.sWidth) ∧ (i ≠ .wrspecPoly → (writes s i).sPoly = s.sPoly) ∧
    (i ≠ .wrspecInit → (writes s i).sInit = s.sInit) ∧ (i ≠ .wrspecXorout → (writes s i).sXorout = s.sXorout) := by
  cases i with
  | wrspecWidth => exact ⟨fun h => absurd rfl h, fun _ => rfl, fun _ => rfl, fun _ => rfl⟩
  | wrspecPoly => exact ⟨fun _ => rfl, fun h => absurd rfl h, fun _ => rfl, fun _ => rfl⟩
  | wrspecInit => exact ⟨fun _ => rfl, fun _ => rfl, fun h => absurd rfl h, fun _ => rfl⟩
  | wrspecXorout => exact ⟨fun _ => rfl, fun _ => rfl, fun _ => rfl, fun h => absurd rfl h⟩
  | _ => exact ⟨fun _ => rfl, fun _ => rfl, fun _ => rfl, fun _ => rfl⟩

/-- VALID after the writes of a command: BUILD sets it, no command clears it (R22). -/
theorem writes_valid_iff {s : State} {i : Instr} :
    (writes s i).valid = true ↔ s.valid = true ∨ ∃ r, i = .build r := by
  cases i with
  | build r => exact ⟨fun _ => .inr ⟨r, rfl⟩, fun _ => rfl⟩
  | _ => simp [writes]

theorem State.isAlive_setAlive_iff {s : State} {i j : Fin 16} :
    (s.setAlive i).isAlive j = true ↔ s.isAlive j = true ∨ i = j := by
  by_cases e : i = j
  · subst e; simp
  · simp [State.isAlive_setAlive_ne s e, e]

/-- ALIVE[j] after the writes of a command: NEW and COPY set it in their destination, BUILD clears it (R22). -/
theorem isAlive_writes_iff {s : State} {i : Instr} {j : Fin 16} : (writes s i).isAlive j = true ↔
    (s.isAlive j = true ∧ ∀ r, i ≠ .build r) ∨ i = .new j ∨ ∃ rs, i = .copy j rs := by
  cases i with
  | build r =>
    have hclear : (writes s (.build r)).isAlive j = false := State.isAlive_clearAlive (fillTable (commitSpec r s)) j
    simp [hclear]
  | new rd => simp [writes, State.isAlive_setAlive_iff]
  | copy rd rs => simp [writes, State.isAlive_setAlive_iff]
  | _ => change s.isAlive j = true ↔ _; simp

/-- Settles O44: a fault leaves the committed part alone, and so do the writes of every command but BUILD. -/
theorem onlyBuildWritesSpecAndTable : Obligations.OnlyBuildWritesSpecAndTable := by
  intro i s t hi h
  obtain ⟨c, -, rfl⟩ | ⟨-, rfl⟩ := exec_cases h
  · simp
  · rw [← writes_withCommittedOf hi s]
    exact ⟨rfl, rfl, rfl, rfl, rfl, rfl, rfl, rfl⟩

/-- Settles O45: a fault leaves the staging registers alone, and so do the writes of every command that does not name
the register. -/
theorem onlyWrspecWritesStaging : Obligations.OnlyWrspecWritesStaging := by
  intro i s t h
  obtain ⟨c, -, rfl⟩ | ⟨-, rfl⟩ := exec_cases h
  · simp
  · exact writes_staging s i

/-- Settles O42: only the writes of a command that passed its tests can change VALID or ALIVE; what they can change is
`writes_valid_iff` and `isAlive_writes_iff`, and the test a BUILD passed is the one of its width. -/
theorem validAndFaultsAreSticky : Obligations.ValidAndFaultsAreSticky := by
  intro s t h
  obtain rfl | ⟨c, rest, cause, -, rfl⟩ | ⟨c, rest, i, v, bs, hin, hd, hp, rfl⟩ := step_outcomes h
  · simp +contextual
  · simp +contextual
  · have hadm : ∀ r, i = .build r → Admitted s.sWidth.toNat := (tests_pass_iff.1 hp).1
    refine ⟨fun hv => writes_valid_iff.2 (.inl hv), fun _ => by simp, by simp, fun hf ht => ?_, fun j => ⟨?_, ?_⟩⟩
    · obtain hv | ⟨r, rfl⟩ := writes_valid_iff.1 ht
      · exact absurd hv (by simp [hf])
      · exact ⟨c, rest, r, hin, hd, hadm r rfl⟩
    · intro hf ht
      obtain ⟨hv, -⟩ | rfl | ⟨rs, rfl⟩ := isAlive_writes_iff.1 ht
      · exact absurd hv (by simp [hf])
      · exact ⟨c, rest, hin, .inl hd⟩
      · exact ⟨c, rest, hin, .inr ⟨rs, hd⟩⟩
    · intro ht hf
      by_cases hb : ∃ r, i = .build r
      · obtain ⟨r, rfl⟩ := hb
        exact ⟨c, rest, r, hin, hd, hadm r rfl⟩
      · have hlive : (writes (s.accept c rest) i).isAlive j = true :=
          isAlive_writes_iff.2 (.inl ⟨ht, fun r e => hb ⟨r, e⟩⟩)
        exact absurd hlive (by simpa using hf)

/-! ## The values the block computes fit the width -/

/-- Setting bit k of `out` when `b` holds. -/
theorem orBit_getLsbD (out : Word) (b : Bool) {k : Nat} (hk : k < 64) (j : Nat) :
    (if b then out ||| ((1 : Word) <<< k) else out).getLsbD j = (out.getLsbD j || (b && decide (j = k))) := by
  have hone : ((1 : Word) <<< k).getLsbD j = decide (j = k) := by
    rw [BitVec.getLsbD_shiftLeft]
    by_cases e : j = k
    · subst e; simp [hk]
    · simp [e]; omega
  cases b with
  | false => simp
  | true => rw [if_pos rfl, BitVec.getLsbD_or, hone, Bool.true_and]

/-- Bit j after the first k turns of `reflect`'s loop: the bits of v below k have reached their mirror places. -/
theorem reflect_loop_getLsbD (v : Word) {n : Nat} (hn : n ≤ 64) {k : Nat} (hk : k ≤ n) (j : Nat) :
    ((List.range k).foldl
      (fun out i => if v.getLsbD i then out ||| ((1 : Word) <<< (n - 1 - i)) else out) 0).getLsbD j =
      (decide (j < n ∧ n - 1 - j < k) && v.getLsbD (n - 1 - j)) := by
  induction k with
  | zero => simp
  | succ k ih =>
    rw [List.range_succ, List.foldl_concat, orBit_getLsbD _ _ (by omega), ih (by omega)]
    by_cases e : j = n - 1 - k
    · have hmirror : n - 1 - j = k := by omega
      have hjn : j < n := by omega
      simp [hmirror, hjn, e.symm]
    · have hsame : (j < n ∧ n - 1 - j < k + 1) ↔ (j < n ∧ n - 1 - j < k) := by omega
      rw [decide_eq_decide.2 hsame, decide_eq_false e, Bool.and_false, Bool.or_false]

/-- Bit j of `reflect(v, n)` (R80). -/
theorem reflect_getLsbD (v : Word) {n : Nat} (hn : n ≤ 64) (j : Nat) :
    (reflect v n).getLsbD j = (decide (j < n) && v.getLsbD (n - 1 - j)) := by
  have hall : (j < n ∧ n - 1 - j < n) ↔ j < n := by omega
  rw [reflect, reflect_loop_getLsbD v hn le_rfl, decide_eq_decide.2 hall]

/-- `reflect(v, n)` is below 2^n (R81 (a)). -/
theorem reflect_lt (v : Word) {n : Nat} (hn : n ≤ 64) : (reflect v n).toNat < 2 ^ n :=
  (toNat_lt_two_pow_iff _ _).2 fun j hj => by rw [reflect_getLsbD v hn, decide_eq_false (by omega), Bool.false_and]

/-- The exclusive or of two values below 2^w is below 2^w. -/
theorem xor_lt {a b : Word} {w : Nat} (ha : a.toNat < 2 ^ w) (hb : b.toNat < 2 ^ w) : (a ^^^ b).toNat < 2 ^ w := by
  rw [BitVec.toNat_xor]; exact Nat.xor_lt_two_pow ha hb

/-- A right shift of a value below 2^w is below 2^w. -/
theorem ushiftRight_lt {a : Word} {w : Nat} (ha : a.toNat < 2 ^ w) (k : Nat) : (a >>> k).toNat < 2 ^ w := by
  rw [BitVec.toNat_ushiftRight]; exact lt_of_le_of_lt (Nat.shiftRight_le _ _) ha

/-- One step of the division, most significant bit first, fits the width of its polynomial (R82). -/
theorem gf2StepMsb_lt {p : Word} {w : Nat} (hp : p.toNat < 2 ^ w) (r : Word) : (gf2StepMsb p w r).toNat < 2 ^ w := by
  have hmasked : ((r <<< 1) &&& mask w).toNat < 2 ^ w := norm_lt (r <<< 1) w
  unfold gf2StepMsb
  split
  · exact xor_lt hmasked hp
  · exact hmasked

/-- One step, least significant bit first, keeps to the width (R83). -/
theorem gf2StepLsb_lt {q r : Word} {w : Nat} (hq : q.toNat < 2 ^ w) (hr : r.toNat < 2 ^ w) :
    (gf2StepLsb q r).toNat < 2 ^ w := by
  unfold gf2StepLsb
  split
  · exact xor_lt (ushiftRight_lt hr 1) hq
  · exact ushiftRight_lt hr 1

/-- The eight-step unit's result fits the width: its last step does (R84). -/
theorem gf2Reduce8Msb_lt {p : Word} {w : Nat} (hp : p.toNat < 2 ^ w) (b : Byte) :
    (gf2Reduce8Msb b p w).toNat < 2 ^ w := by
  rw [gf2Reduce8Msb, Function.iterate_succ_apply']; exact gf2StepMsb_lt hp _

/-- The reflected unit's result fits the width: a byte does, and every step keeps to it (R85). -/
theorem gf2Reduce8Lsb_lt {q : Word} {w : Nat} (hw : 8 ≤ w) (hq : q.toNat < 2 ^ w) (b : Byte) :
    (gf2Reduce8Lsb b q).toNat < 2 ^ w := by
  have hb : (byteWord b).toNat < 2 ^ w := by
    rw [byteWord, BitVec.toNat_setWidth_of_le (by decide)]
    exact lt_of_lt_of_le b.isLt (Nat.pow_le_pow_right (by decide) hw)
  exact Function.Iterate.rec (fun r : Word => r.toNat < 2 ^ w) hb (fun _ => gf2StepLsb_lt hq) 8

/-- Every table entry fits the width (R91). -/
theorem tblentry_lt {s : State} (hw : Admitted s.width.toNat) (hp : s.poly.toNat < 2 ^ s.width.toNat)
    (hq : s.rpoly.toNat < 2 ^ s.width.toNat) (k : Byte) : (tblentry s k).toNat < 2 ^ s.width.toNat := by
  unfold tblentry
  split
  · exact gf2Reduce8Lsb_lt hw.1 hq k
  · exact gf2Reduce8Msb_lt hp k

/-- One update of a register that fits the width fits it (R100). -/
theorem upd1_lt {s : State} (hs : SpecInv s) {reg : Word} (hreg : reg.toNat < 2 ^ s.width.toNat) (b : Byte) :
    (upd1 s reg b).toNat < 2 ^ s.width.toNat := by
  unfold upd1
  split
  · exact xor_lt (hs.table_lt _) (ushiftRight_lt hreg 8)
  · exact xor_lt (hs.table_lt _) (norm_lt (reg <<< 8) s.width.toNat)

/-- And so do updates over any number of lanes (R104). -/
theorem updLanes_lt {s : State} (hs : SpecInv s) {reg : Word} (hreg : reg.toNat < 2 ^ s.width.toNat) (n : Nat) :
    (updLanes s reg n).toNat < 2 ^ s.width.toNat :=
  List.foldlRecOn (motive := fun reg : Word => reg.toNat < 2 ^ s.width.toNat) (List.range n) _ hreg
    fun _ h k _ => upd1_lt hs h (lane s.wdata k)

/-! ## The invariants of the spec -/

/-- What the invariants ask of the value `v` in the live accumulator `i` of `s`. -/
def State.MayHold (s : State) (i : Fin 16) (v : Word) : Prop :=
  s.valid = true ∧ i.val < s.cfg.nacc ∧ v.toNat < 2 ^ s.width.toNat

theorem State.Inv.mayHold {s : State} (h : s.Inv) {i : Fin 16} (hi : s.isAlive i = true) : s.MayHold i (s.getX i) :=
  ⟨h.alive_valid i hi, h.alive_exists i hi, h.x_lt i hi⟩

/-- The spec invariants speak of the committed part only. -/
theorem SpecInv.withCommittedOf {s : State} (h : SpecInv s) (t : State) : SpecInv (t.withCommittedOf s) := { h with }

/-- A change that leaves the committed part and NACC alone keeps the invariants when every accumulator that is live
after it holds what it may. -/
theorem State.Inv.of_committed {s t : State} (h : s.Inv) (hc : t.withCommittedOf s = t) (hcfg : t.cfg = s.cfg)
    (hacc : ∀ i, t.isAlive i = true → s.MayHold i (t.getX i)) : t.Inv := by
  have hvalid : t.valid = s.valid := by rw [← hc]; rfl
  have htable : t.table = s.table := by rw [← hc]; rfl
  have hwidth : t.width = s.width := by rw [← hc]; rfl
  exact {
    cfg_wf := hcfg ▸ h.cfg_wf
    table_wf := htable ▸ h.table_wf
    spec := fun hv => hc ▸ (h.spec (hvalid ▸ hv)).withCommittedOf t
    alive_valid := fun i hi => hvalid ▸ (hacc i hi).1
    alive_exists := fun i hi => hcfg ▸ (hacc i hi).2.1
    x_lt := fun i hi => hwidth ▸ (hacc i hi).2.2 }

/-- After `x[rd] <- v` the register `rd`, and each that was live, holds what it may. -/
theorem State.Inv.mayHold_setX {s : State} (h : s.Inv) {rd j : Fin 16} {v : Word} (hv : s.MayHold rd v)
    (hj : s.isAlive j = true ∨ rd = j) : s.MayHold j ((s.setX rd v).getX j) := by
  by_cases e : rd = j
  · subst e; rwa [State.getX_setX_same]
  · rw [State.getX_setX_ne s v e]; exact h.mayHold (hj.resolve_right e)

/-- UPDB and UPDW: a new value in a register (R103, R104). -/
theorem State.Inv.setX {s : State} (h : s.Inv) {rd : Fin 16} {v : Word} (hv : s.MayHold rd v) : (s.setX rd v).Inv :=
  h.of_committed rfl rfl fun _ hj => h.mayHold_setX hv (.inl hj)

/-- NEW and COPY: a new value in a register, which becomes live (R101, R102). -/
theorem State.Inv.load {s : State} (h : s.Inv) {rd : Fin 16} {v : Word} (hv : s.MayHold rd v) :
    ((s.setX rd v).setAlive rd).Inv :=
  h.of_committed rfl rfl fun _ hj => h.mayHold_setX hv (State.isAlive_setAlive_iff.1 hj)

/-- The width BUILD commits is the staged one: an admitted width fits in 7 bits (R90). -/
theorem commitSpec_width_toNat {s : State} (ha : Admitted s.sWidth.toNat) (r : Bool) :
    (commitSpec r s).width.toNat = s.sWidth.toNat := by
  rw [commitSpec_width, BitVec.toNat_setWidth]; exact Nat.mod_eq_of_lt (by omega)

/-- What BUILD commits, with the table filled from it, meets the spec invariants (R90, R91). -/
theorem specInv_fillTable_commitSpec {s : State} (hm : Memory.wf s.table) (ha : Admitted s.sWidth.toNat) (r : Bool) :
    SpecInv (fillTable (commitSpec r s)) := by
  have hw := commitSpec_width_toNat ha r
  have hpoly : (commitSpec r s).poly.toNat < 2 ^ (commitSpec r s).width.toNat := hw ▸ norm_lt _ _
  have hrpoly : (commitSpec r s).rpoly.toNat < 2 ^ (commitSpec r s).width.toNat := hw ▸ reflect_lt _ ha.2.1
  have hread : ∀ k, memRead (fillTable (commitSpec r s)).table k = tblentry (commitSpec r s) k :=
    memRead_memFill hm _
  exact {
    width_admitted := hw ▸ ha
    poly_lt := hpoly
    init_lt := hw ▸ norm_lt _ _
    xorout_lt := hw ▸ norm_lt _ _
    rpoly_eq := hw ▸ rfl
    rpoly_lt := hrpoly
    table_eq := hread
    table_lt := fun k => hread k ▸ tblentry_lt (hw ▸ ha) hpoly hrpoly k }

/-- BUILD with an admitted width meets the invariants: a new spec with its table, and no live accumulator. -/
theorem State.Inv.build {s : State} (h : s.Inv) (ha : Admitted s.sWidth.toNat) (r : Bool) :
    (writes s (.build r)).Inv := by
  have hdead : ∀ i, (writes s (.build r)).isAlive i ≠ true := fun i => by simp [isAlive_writes_iff]
  exact {
    cfg_wf := h.cfg_wf
    table_wf := memFill_wf h.table_wf _
    spec := fun _ => { specInv_fillTable_commitSpec h.table_wf ha r with }
    alive_valid := fun _ _ => rfl
    alive_exists := fun i hi => absurd hi (hdead i)
    x_lt := fun i hi => absurd hi (hdead i) }

/-- The writes of a command that passed its tests keep the invariants. -/
theorem State.Inv.writes {s : State} {i : Instr} (h : s.Inv) (hp : firstFault (tests s i) = none) :
    (writes s i).Inv := by
  obtain ⟨hbuild, hneeds⟩ := tests_pass_iff.1 hp
  cases i with
  | build r => exact h.build (hbuild r rfl) r
  | new rd =>
    obtain ⟨hv, hidx, -⟩ := hneeds rfl
    exact h.load ⟨hv, hidx rd (by simp [usedIndices]), (h.spec hv).init_lt⟩
  | copy rd rs =>
    obtain ⟨hv, hidx, hlive⟩ := hneeds rfl
    exact h.load ⟨hv, hidx rd (by simp [usedIndices]), h.x_lt rs (hlive rs (by simp [readIndices]))⟩
  | updb rd b =>
    obtain ⟨hv, hidx, hlive⟩ := hneeds rfl
    have hx := h.x_lt rd (hlive rd (by simp [readIndices]))
    exact h.setX ⟨hv, hidx rd (by simp [usedIndices]), upd1_lt (h.spec hv) hx b⟩
  | updw rd n =>
    obtain ⟨hv, hidx, hlive⟩ := hneeds rfl
    have hx := h.x_lt rd (hlive rd (by simp [readIndices]))
    exact h.setX ⟨hv, hidx rd (by simp [usedIndices]), updLanes_lt (h.spec hv) hx n⟩
  | _ => exact h.of_committed rfl rfl fun _ => h.mayHold

/-- Settles O47: a fault and a response touch nothing the invariants speak of, and the writes of a command that passed
its tests keep them. -/
theorem stepKeepsSpecInvariants : Obligations.StepKeepsSpecInvariants := by
  intro s t h hstep
  obtain rfl | ⟨c, rest, cause, -, rfl⟩ | ⟨c, rest, i, v, bs, -, -, hp, rfl⟩ := step_outcomes hstep
  · exact h
  · exact h.of_committed rfl rfl fun _ => h.mayHold
  · have haccept : (s.accept c rest).Inv := h.of_committed rfl rfl fun _ => h.mayHold
    have hwrites := haccept.writes hp
    exact hwrites.of_committed rfl rfl fun _ => hwrites.mayHold

@[simp] theorem State.isAlive_resetOf (c : Config) (i : Fin 16) : (State.resetOf c).isAlive i = false := by
  simp [State.isAlive, State.resetOf]

/-- Settles O48: after reset VALID is 0 and no accumulator is live, so the invariants ask only for NACC's range. -/
theorem resetMeetsSpecInvariants : Obligations.ResetMeetsSpecInvariants := fun c hc => {
  cfg_wf := hc
  table_wf := ⟨List.Pairwise.nil, fun _ hm => absurd hm List.not_mem_nil⟩
  spec := fun hv => absurd hv Bool.false_ne_true
  alive_valid := fun i hi => absurd hi (by simp)
  alive_exists := fun i hi => absurd hi (by simp)
  x_lt := fun i hi => absurd hi (by simp) }

/-- Settles O49: each value is the one `State.resetOf` writes. -/
theorem resetValues : Obligations.ResetValues :=
  ⟨rfl, rfl, rfl, rfl, rfl, State.isAlive_resetOf _, fun c => by cases c <;> rfl, rfl⟩

/-! ## The STATUS image -/

/-- A flag put at bit k sets that bit to the flag (R79). -/
theorem or_flagWord_getLsbD (w : Word) (b : Bool) {k : Nat} (hk : k < 64) (j : Nat) :
    (w ||| (flagWord b <<< k)).getLsbD j = (w.getLsbD j || (b && decide (j = k))) := by
  rw [← orBit_getLsbD w b hk]
  cases b <;> simp [flagWord]

/-- Bit j of the image of VALID and FAULTS (R19). -/
theorem faultImage_getLsbD (s : State) (j : Nat) : (faultImage s).getLsbD j =
    ((s.valid && decide (j = 0)) || (s.faults.illegalCommand && decide (j = 1)) ||
      (s.faults.invalidSpecification && decide (j = 2)) || (s.faults.notConfigured && decide (j = 3)) ||
      (s.faults.badAccumulator && decide (j = 4)) || (s.faults.deadAccumulator && decide (j = 5))) := by
  have hvalid : (flagWord s.valid).getLsbD j = (s.valid && decide (j = 0)) := by
    simpa using or_flagWord_getLsbD 0 s.valid (k := 0) (by decide) j
  simp only [faultImage, or_flagWord_getLsbD, hvalid, Nat.reduceLT]

/-- Bit j after the ALIVE bits below n are put over the image `w` (R79). -/
theorem alive_loop_getLsbD (s : State) (w : Word) {n : Nat} (hn : n ≤ 16) (j : Nat) :
    ((List.range n).foldl (fun w i => w ||| (flagWord (s.aliveAt i) <<< (8 + i))) w).getLsbD j =
      (w.getLsbD j || (decide (8 ≤ j ∧ j < 8 + n) && s.aliveAt (j - 8))) := by
  induction n with
  | zero => rw [decide_eq_false (by omega)]; simp
  | succ n ih =>
    rw [List.range_succ, List.foldl_concat, or_flagWord_getLsbD _ _ (by omega), ih (by omega)]
    by_cases e : j = 8 + n
    · subst e; simp
    · have hsame : (8 ≤ j ∧ j < 8 + (n + 1)) ↔ (8 ≤ j ∧ j < 8 + n) := by omega
      rw [decide_eq_decide.2 hsame, decide_eq_false e, Bool.and_false, Bool.or_false]

/-- Bit j of the STATUS image: VALID and FAULTS below 8, ALIVE from 8 on (R19). -/
theorem statusImage_getLsbD {s : State} (h : s.cfg.wf) (j : Nat) : (statusImage s).getLsbD j =
    ((faultImage s).getLsbD j || (decide (8 ≤ j ∧ j < 8 + s.cfg.nacc) && s.aliveAt (j - 8))) :=
  alive_loop_getLsbD s _ h.2 j

/-- Settles O13: the answer is the image; bits 0 to 7 are those of `faultImage_getLsbD`, and above them there are the
ALIVE bits of the accumulators below NACC alone. -/
theorem statusImageLayout : Obligations.StatusImageLayout := by
  intro s h
  have hbit := statusImage_getLsbD h
  have hlow : ∀ j < 8, (statusImage s).getLsbD j = (faultImage s).getLsbD j := fun j hj => by
    rw [hbit, decide_eq_false (by omega), Bool.false_and, Bool.or_false]
  have hfault : ∀ j, 8 ≤ j → (faultImage s).getLsbD j = false := fun j hj => by
    simp [faultImage_getLsbD, show j ≠ 0 ∧ j ≠ 1 ∧ j ≠ 2 ∧ j ≠ 3 ∧ j ≠ 4 ∧ j ≠ 5 by omega]
  have halive : ∀ i : Fin 16, (statusImage s).getLsbD (8 + i.val) = (decide (i.val < s.cfg.nacc) && s.isAlive i) :=
    fun i => by simp [hbit, hfault, State.aliveAt]
  have hhigh : ∀ j, 24 ≤ j → (statusImage s).getLsbD j = false := fun j hj => by
    have hnacc := h.2
    rw [hbit, hfault j (by omega), decide_eq_false (by omega)]; rfl
  refine ⟨statusImage s, by decide, rfl, ?_, ?_, ?_, ?_, ?_, ?_, ?_, ?_, halive, hhigh⟩
  all_goals
    rw [hlow _ (by decide), faultImage_getLsbD]
    simp

end Sys2Proof.Machine
end

section
namespace Sys2Proof.Spec

open Sys2Proof.Machine

/-! ## What the spec leaves unspecified is unobservable -/

/-- With VALID = 1 two states of the same view differ in accumulators alone: a table in canonical form is given by its
entries. -/
theorem SameView.eq_of_valid {s t : State} (h : SameView s t) (hv : s.valid = true) : t = { s with x := t.x } := by
  obtain ⟨hwidth, hpoly, hrefl, hinit, hxorout, hrpoly, hread⟩ := h.spec hv
  have htable : s.table = t.table := Memory.ext_memRead h.left_wf h.right_wf hread
  rw [h.sWidth, h.sPoly, h.sInit, h.sXorout, h.valid, h.alive, h.faults, h.cfg, h.wdata, h.input, h.responses,
    hwidth, hpoly, hrefl, hinit, hxorout, hrpoly, htable]

theorem SameView.accept {s t : State} (h : SameView s t) (c : PortCmd) (rest : List PortCmd) :
    SameView (s.accept c rest) (t.accept c rest) := { h with wdata := rfl, input := rfl }

theorem SameView.takeFault {s t : State} (h : SameView s t) (c : Cause) :
    SameView (s.takeFault c) (t.takeFault c) :=
  { h with
    faults := congrArg (·.raise c) h.faults
    responses := congrArg (· ++ _) h.responses }

theorem SameView.respond {s t : State} (h : SameView s t) (v : Word) (bs : List Byte) :
    SameView (s.respond v bs) (t.respond v bs) := { h with responses := congrArg (· ++ _) h.responses }

/-- The same value written to one register. -/
theorem SameView.setX {s t : State} (h : SameView s t) (i : Fin 16) {v w : Word} (hvw : v = w) :
    SameView (s.setX i v) (t.setX i w) :=
  { h with
    x := fun j hj => by
      by_cases e : i = j
      · subst e; simpa using hvw
      · rw [State.getX_setX_ne s v e, State.getX_setX_ne t w e]; exact h.x j hj }

/-- A register that agrees may become live. -/
theorem SameView.setAlive {s t : State} (h : SameView s t) {i : Fin 16} (hi : s.getX i = t.getX i) :
    SameView (s.setAlive i) (t.setAlive i) :=
  { h with
    alive := congrArg (·.set i.val true i.isLt) h.alive
    x := fun j hj => by
      obtain hj | rfl := State.isAlive_setAlive_iff.1 hj
      · exact h.x j hj
      · exact hi }

/-- NEW and COPY: the same value in a register, which becomes live. -/
theorem SameView.load {s t : State} (h : SameView s t) (i : Fin 16) {v w : Word} (hvw : v = w) :
    SameView ((s.setX i v).setAlive i) ((t.setX i w).setAlive i) :=
  (h.setX i hvw).setAlive (by simpa using hvw)

/-- BUILD: what it commits comes from the staging registers, the table from what it commits, and no accumulator is live
after it. -/
theorem SameView.build {s t : State} (h : SameView s t) (r : Bool) :
    SameView (writes s (.build r)) (writes t (.build r)) := by
  have hentry : tblentry (commitSpec r s) = tblentry (commitSpec r t) := by
    funext k; simp [tblentry, h.sWidth, h.sPoly]
  exact { h with
    valid := rfl
    alive := rfl
    left_wf := memFill_wf h.left_wf _
    right_wf := memFill_wf h.right_wf _
    spec := fun _ => by
      simp [writes, h.sWidth, h.sPoly, h.sInit, h.sXorout, memRead_memFill h.left_wf, memRead_memFill h.right_wf, hentry]
    x := fun i hi => by simp [isAlive_writes_iff] at hi }

theorem SameView.isAlive {s t : State} (h : SameView s t) (j : Fin 16) : s.isAlive j = t.isAlive j :=
  congrArg (·[j.val]) h.alive

/-- The tests of a command read nothing that is unspecified. -/
theorem SameView.tests {s t : State} (h : SameView s t) (i : Instr) : tests s i = tests t i := by
  have hwidth : checkWidth s = checkWidth t := by simp [checkWidth, h.sWidth]
  have hcfg : checkCfg s = checkCfg t := by simp [checkCfg, h.valid]
  have hidx : ∀ j, checkIdx s j = checkIdx t j := fun j => by simp [checkIdx, h.cfg]
  have hlive : ∀ j, checkLive s j = checkLive t j := fun j => by simp [checkLive, h.isAlive]
  cases i <;> simp [Machine.tests, hwidth, hcfg, hidx, hlive]

/-- The STATUS image shows nothing that is unspecified (R19). -/
theorem SameView.statusImage {s t : State} (h : SameView s t) : statusImage s = statusImage t := by
  have halive : ∀ j, s.aliveAt j = t.aliveAt j := fun j => by simp [State.aliveAt, h.isAlive]
  simp [Machine.statusImage, faultImage, halive, h.valid, h.faults, h.cfg]

/-- A command that passed its tests answers the same in both states, and its writes keep the view the same: what it uses
of the active spec, the table and the accumulators its tests have found valid and live. -/
theorem SameView.pass {s t : State} (h : SameView s t) {i : Instr} (hp : firstFault (Machine.tests s i) = none) :
    SameView (writes s i) (writes t i) ∧ rdataOf s i = rdataOf t i ∧ obytesOf s i = obytesOf t i := by
  obtain ⟨-, hneeds⟩ := tests_pass_iff.1 hp
  have hspec : needsSpec i = true → ∃ x, t = { s with x := x } := fun hs => ⟨t.x, h.eq_of_valid (hneeds hs).1⟩
  have hread : needsSpec i = true → ∀ j ∈ readIndices i, s.getX j = t.getX j := fun hs j hj =>
    h.x j ((hneeds hs).2.2 j hj)
  cases i with
  | wrspecWidth => exact ⟨{ h with sWidth := h.wdata }, rfl, rfl⟩
  | wrspecPoly => exact ⟨{ h with sPoly := h.wdata }, rfl, rfl⟩
  | wrspecInit => exact ⟨{ h with sInit := h.wdata }, rfl, rfl⟩
  | wrspecXorout => exact ⟨{ h with sXorout := h.wdata }, rfl, rfl⟩
  | build r => exact ⟨h.build r, rfl, rfl⟩
  | rdspecStatus => exact ⟨h, h.statusImage, rfl⟩
  | rdspecWidth | rdspecPoly | rdspecInit | rdspecXorout | rdspecRefl | rdspecRpoly | rdtbl idx =>
    obtain ⟨x, rfl⟩ := hspec rfl
    exact ⟨h, rfl, rfl⟩
  | new rd =>
    obtain ⟨x, rfl⟩ := hspec rfl
    exact ⟨h.load rd rfl, rfl, rfl⟩
  | copy rd rs => exact ⟨h.load rd (hread rfl rs (by simp [readIndices])), rfl, rfl⟩
  | updb rd b =>
    have hx := hread rfl rd (by simp [readIndices])
    obtain ⟨x, rfl⟩ := hspec rfl
    exact ⟨h.setX rd (congrArg (upd1 s · b) hx), rfl, rfl⟩
  | updw rd n =>
    have hx := hread rfl rd (by simp [readIndices])
    obtain ⟨x, rfl⟩ := hspec rfl
    exact ⟨h.setX rd (congrArg (updLanes s · n) hx), rfl, rfl⟩
  | crcval rs =>
    have hx := hread rfl rs (by simp [readIndices])
    obtain ⟨x, rfl⟩ := hspec rfl
    exact ⟨h, congrArg (· ^^^ s.xorout) hx, rfl⟩
  | digest rs =>
    have hx := hread rfl rs (by simp [readIndices])
    obtain ⟨x, rfl⟩ := hspec rfl
    exact ⟨h, rfl, congrArg (fun v => digestBytes (v ^^^ s.xorout) s.width.toNat) hx⟩
  | hexdig rs =>
    have hx := hread rfl rs (by simp [readIndices])
    obtain ⟨x, rfl⟩ := hspec rfl
    exact ⟨h, rfl, congrArg (fun v => hexBytes (digestBytes (v ^^^ s.xorout) s.width.toNat)) hx⟩

/-- One command on two states of the same view: the same fault, or the same response, and the same view after it. -/
theorem SameView.exec {s t : State} (h : SameView s t) (i : Instr) :
    ∃ s' t', exec i s = .next s' ∧ exec i t = .next t' ∧ SameView s' t' := by
  cases hf : firstFault (Machine.tests s i) with
  | none =>
    obtain ⟨hwrites, hrdata, hobytes⟩ := h.pass hf
    refine ⟨_, _, exec_pass hf, exec_pass (h.tests i ▸ hf), ?_⟩
    rw [hrdata, hobytes]
    exact hwrites.respond _ _
  | some c => exact ⟨_, _, exec_fail hf, exec_fail (h.tests i ▸ hf), h.takeFault c⟩

/-- Settles O50: the two states are presented the same word, and go the same way through `step` on it. -/
theorem unspecifiedStateIsUnobservable : Obligations.UnspecifiedStateIsUnobservable := by
  intro s t h
  cases hs : s.input with
  | nil => exact ⟨s, t, step_idle hs, step_idle (h.input ▸ hs), h⟩
  | cons c rest =>
    have ht : t.input = c :: rest := h.input ▸ hs
    cases hd : decode c.cmd with
    | error e => exact ⟨_, _, step_illegal hs hd, step_illegal ht hd, (h.accept c rest).takeFault _⟩
    | ok i =>
      rw [step_legal hs hd, step_legal ht hd]
      exact (h.accept c rest).exec i

end Sys2Proof.Spec
end

section
/-!
PROOFS of the family `20_memory.md`: the words of format A on naturals, the admission checks, and the table
memory, and byte lanes, digest bytes and the per-byte update on naturals.
-/
namespace Sys2Proof

/-- A word of two fields is the upper one moved up by the width of the lower, plus the lower. -/
theorem toNat_append_eq_add {m n : Nat} (x : BitVec m) (y : BitVec n) :
    (x ++ y).toNat = 2 ^ n * x.toNat + y.toNat := by
  rw [BitVec.toNat_append, ← Nat.shiftLeft_add_eq_or_of_lt y.isLt, Nat.shiftLeft_eq, Nat.mul_comm]

/-- A word in format A on naturals (R47, R53). -/
theorem formatA_toNat (op rd rs fn : Nibble) : (formatA op rd rs fn).toNat =
    0x1000 * op.toNat + 0x100 * rd.toNat + 0x10 * rs.toNat + fn.toNat := by
  have h : (formatA op rd rs fn).toNat = 2 ^ 4 * (2 ^ 4 * (2 ^ 4 * op.toNat + rd.toNat) + rs.toNat) + fn.toNat := by
    rw [← toNat_append_eq_add, ← toNat_append_eq_add, ← toNat_append_eq_add]; rfl
  omega

@[simp] theorem accNibble_toNat (i : Fin 16) : (accNibble i).toNat = i.val := rfl

end Sys2Proof

namespace Sys2Proof.Machine

open Sys2Proof.Spec

/-! ## The admission checks -/

/-- The first fault of two groups of tests, one after the other: the second group decides only when the first passes. -/
theorem firstFault_append (l m : List (Option Cause)) : firstFault (l ++ m) = (firstFault l).or (firstFault m) := by
  induction l with
  | nil => rfl
  | cons o l ih =>
    cases o with
    | none => exact ih
    | some c => rfl

/-- One test made of each of several accumulators, whose only fault is `c`, finds `c` when it fails of one of them. -/
theorem firstFault_map_eq_some {f : Fin 16 → Option Cause} {l : List (Fin 16)} {c : Cause}
    (honly : ∀ {j d}, f j = some d → d = c) (h : ∃ j ∈ l, f j = some c) : firstFault (l.map f) = some c := by
  cases hf : firstFault (l.map f) with
  | none =>
    obtain ⟨j, hj, hc⟩ := h
    have hpass : f j = none := firstFault_eq_none.1 hf _ (List.mem_map_of_mem hj)
    exact absurd (hc.symm.trans hpass) (by simp)
  | some d =>
    obtain ⟨j, -, hd⟩ := List.mem_map.1 (firstFault_mem hf)
    rw [honly hd]

/-- The tests of a command that needs the active spec: the configuration, then its indices, then the accumulators it
reads (R109). -/
theorem tests_of_needsSpec {i : Instr} (h : needsSpec i = true) (s : State) :
    tests s i = checkCfg s :: ((usedIndices i).map (checkIdx s) ++ (readIndices i).map (checkLive s)) := by
  cases i with
  | wrspecWidth | wrspecPoly | wrspecInit | wrspecXorout | build r | rdspecStatus => cases h
  | _ => rfl

/-- Every command that needs the active spec makes the admission checks in order (R109, R124). -/
theorem admissionChecked_of_needsSpec {i : Instr} (h : needsSpec i = true) (s : State) : AdmissionChecked i s := by
  have htests : firstFault (tests s i) = (checkCfg s).or
      ((firstFault ((usedIndices i).map (checkIdx s))).or (firstFault ((readIndices i).map (checkLive s)))) := by
    rw [tests_of_needsSpec h, ← firstFault_append]
    cases checkCfg s <;> rfl
  refine ⟨fun hv => exec_fail (c := .notConfigured) ?_, fun hv hbad => exec_fail (c := .badAccumulator) ?_,
    fun hv hidx hdead => exec_fail (c := .deadAccumulator) ?_⟩
  · simp [htests, checkCfg, hv]
  · have hfault : firstFault ((usedIndices i).map (checkIdx s)) = some .badAccumulator :=
      firstFault_map_eq_some (fun hd => (checkIdx_some hd).1) (by simpa [checkIdx] using hbad)
    simp [htests, checkCfg_pass hv, hfault]
  · have hpass : firstFault ((usedIndices i).map (checkIdx s)) = none :=
      firstFault_eq_none.2 (List.forall_mem_map.2 fun j hj => checkIdx_pass (hidx j hj))
    have hfault : firstFault ((readIndices i).map (checkLive s)) = some .deadAccumulator :=
      firstFault_map_eq_some (fun hd => (checkLive_some hd).1) (by simpa [checkLive] using hdead)
    simp [htests, checkCfg_pass hv, hpass, hfault]

/-- A command that needs the active spec completes with VALID = 1 and its accumulators existing and live (R109). -/
theorem exec_of_ready {i : Instr} {s : State} (h : needsSpec i = true) (hv : s.valid = true)
    (hready : indicesReady s i) : exec i s = .next ((writes s i).respond (rdataOf s i) (obytesOf s i)) :=
  exec_pass (tests_pass_iff.2 ⟨fun r hr => (by subst hr; cases h), fun _ => ⟨hv, hready⟩⟩)

/-- The same for a command with one index field, of an accumulator it reads. -/
theorem exec_of_live {i : Instr} {s : State} {a : Fin 16} (h : needsSpec i = true) (hused : usedIndices i = [a])
    (hread : readIndices i = [a]) (hv : s.valid = true) (hidx : a.val < s.cfg.nacc) (hlive : s.isAlive a = true) :
    exec i s = .next ((writes s i).respond (rdataOf s i) (obytesOf s i)) :=
  exec_of_ready h hv ⟨by simpa [hused] using hidx, by simpa [hread] using hlive⟩

/-! ## The table memory -/

/-- Settles O24: what a write keeps and what a read after it answers are the laws of the table memory. -/
theorem memWriteSetsOneEntry : Obligations.MemWriteSetsOneEntry := fun m i v h =>
  ⟨memWrite_wf h i v, by rw [memRead_memWrite h, if_pos rfl], fun j hj => by rw [memRead_memWrite h, if_neg hj]⟩

/-! ## The operand forms and the update on naturals -/

/-- A shifted word's low byte on naturals (R35). -/
theorem lowByteOf_ushiftRight_toNat (v : Word) (k : Nat) :
    (lowByteOf (v >>> k)).toNat = v.toNat / 2 ^ k % 256 := by
  rw [lowByteOf, BitVec.toNat_setWidth, BitVec.toNat_ushiftRight, Nat.shiftRight_eq_div_pow]

/-- A byte lane on naturals (R36). -/
theorem lane_toNat (v : Word) (k : Nat) : (lane v k).toNat = laneNat v.toNat k := by
  rw [lane, BitVec.extractLsb'_toNat, Nat.shiftRight_eq_div_pow, laneNat]

/-- A byte on the data path has its own value (R9). -/
theorem byteWord_toNat (b : Byte) : (byteWord b).toNat = b.toNat :=
  BitVec.toNat_setWidth_of_le (by decide)

/-- `norm` on naturals (R66). -/
theorem norm_toNat (v : Word) (w : Nat) : (norm v w).toNat = v.toNat % 2 ^ w :=
  Nat.eq_of_testBit_eq fun i => by
    rw [Nat.testBit_mod_two_pow, Bool.and_comm]
    exact norm_getLsbD v w i

/-- `lowByteOf` on naturals: the index of a table entry (R100). -/
theorem lowByteOf_eq_ofNat (v : Word) : lowByteOf v = BitVec.ofNat 8 (v.toNat % 256) :=
  BitVec.eq_of_toNat_eq (by simp [lowByteOf])

/-- The per-byte update on naturals (R100). -/
theorem upd1_toNat {s : State} (hw : s.width.toNat ≤ 64) (reg : Word) (b : Byte) :
    (upd1 s reg b).toNat = updNat s reg.toNat b.toNat := by
  have hshift : ((reg <<< 8) &&& mask s.width.toNat).toNat = reg.toNat * 2 ^ 8 % 2 ^ s.width.toNat := by
    rw [← norm, norm_toNat, BitVec.toNat_shiftLeft, Nat.shiftLeft_eq, Nat.mod_mod_of_dvd _ (pow_dvd_pow 2 hw)]
  unfold upd1 updNat
  split
  · rw [BitVec.toNat_xor, lowByteOf_eq_ofNat, BitVec.toNat_xor, byteWord_toNat, BitVec.toNat_ushiftRight,
      Nat.shiftRight_eq_div_pow]
  · rw [BitVec.toNat_xor, lowByteOf_eq_ofNat, BitVec.toNat_xor, byteWord_toNat, BitVec.toNat_ushiftRight,
      Nat.shiftRight_eq_div_pow, hshift]

/-- The update over lanes on naturals: the fold takes the same steps on either side (R36, R104). -/
theorem updLanes_toNat {s : State} (hw : s.width.toNat ≤ 64) (reg : Word) (n : Nat) :
    (updLanes s reg n).toNat =
      (List.range n).foldl (fun reg k => updNat s reg (laneNat s.wdata.toNat k)) reg.toNat :=
  (List.foldl_hom BitVec.toNat fun reg k => by rw [upd1_toNat hw, lane_toNat]).symm

/-- UPDW on a live accumulator: the update over the lanes is written to it (R104). -/
theorem exec_updw {s : State} {rd : Fin 16} (hv : s.valid = true) (hidx : rd.val < s.cfg.nacc)
    (hlive : s.isAlive rd = true) (n : Nat) :
    exec (.updw rd n) s = .next ((s.setX rd (updLanes s (s.getX rd) n)).respond 0 []) :=
  exec_of_live rfl rfl rfl hv hidx hlive

/-- DIGEST of a live accumulator: the digest bytes are answered (R107). -/
theorem exec_digest {s : State} {rs : Fin 16} (hv : s.valid = true) (hidx : rs.val < s.cfg.nacc)
    (hlive : s.isAlive rs = true) :
    exec (.digest rs) s = .next (s.respond 0 (digestBytes (outval s rs) s.width.toNat)) :=
  exec_of_live rfl rfl rfl hv hidx hlive

/-- Settles O30: on a live accumulator UPDW writes the fold over the lanes, which with n = 0 is the value that is
there. -/
theorem updwProcessesLanesInOrder : Obligations.UpdwProcessesLanesInOrder := by
  intro rd n s hn
  refine ⟨?_, admissionChecked_of_needsSpec rfl s, fun hv hidx hlive => ⟨⟨updLanes s (s.getX rd) n, ?_, ?_⟩, ?_⟩⟩
  · rw [encode, formatA_toNat, accNibble_toNat, BitVec.toNat_ofNat, Nat.mod_eq_of_lt (by omega)]; rfl
  · exact exec_updw hv hidx hlive n
  · exact fun hw => updLanes_toNat hw.2.1 _ n
  · rintro rfl
    have hsame : s.setX rd (updLanes s (s.getX rd) 0) = s := State.setX_getX s rd
    rw [exec_updw hv hidx hlive, hsame]; rfl

/-- WIDTH/8 digest bytes (R35). -/
theorem digestBytes_length (v : Word) (w : Nat) : (digestBytes v w).length = w / 8 := by simp [digestBytes]

/-- Digest byte k is the k-th from the most significant end (R35). -/
theorem digestBytes_get_toNat (v : Word) (w : Nat) {k : Nat} (h : k < (digestBytes v w).length) :
    ((digestBytes v w).get ⟨k, h⟩).toNat = v.toNat / 2 ^ (w - 8 * (k + 1)) % 256 := by
  rw [← lowByteOf_ushiftRight_toNat]; simp [digestBytes]

/-- Settles O32: the bytes answered are the digest bytes of x[rs] XOR XOROUT, whatever REFL is. -/
theorem digestIsBigEndian : Obligations.DigestIsBigEndian := by
  intro rs s
  refine ⟨?_, admissionChecked_of_needsSpec rfl s, fun hv hidx hlive => ⟨_, exec_digest hv hidx hlive, ?_, ?_⟩⟩
  · rw [encode, formatA_toNat, accNibble_toNat]; rfl
  · exact digestBytes_length _ _
  · exact fun k h => digestBytes_get_toNat _ _ h

end Sys2Proof.Machine
end

section
/-!
PROOFS of the family `30_encoding.md`: the words of the encoder, what the decoder reads, the opcode map and the illegal
words, the response of a command, and the commands that ignore the data operand.
-/
namespace Sys2Proof

open Sys2Proof.Spec

/-! ## The words of the encoder on naturals (R53) -/

/-- A word in format I on naturals (R47). -/
theorem formatI_toNat (op rd : Nibble) (b : Byte) :
    (formatI op rd b).toNat = 0x1000 * op.toNat + 0x100 * rd.toNat + b.toNat := by
  have h : (formatI op rd b).toNat = 2 ^ 8 * (2 ^ 4 * op.toNat + rd.toNat) + b.toNat := by
    rw [← toNat_append_eq_add, ← toNat_append_eq_add]; rfl
  omega

theorem encode_build_toNat (r : Bool) : (encode (.build r)).toNat = 0x2000 + r.toNat := by cases r <;> rfl

theorem encode_rdtbl_toNat (idx : Byte) : (encode (.rdtbl idx)).toNat = 0x4000 + idx.toNat := by
  simp [encode, formatT_eq, formatI_toNat]

theorem encode_new_toNat (rd : Fin 16) : (encode (.new rd)).toNat = 0x5000 + 0x100 * rd.val := by
  simp [encode, formatA_toNat]

theorem encode_copy_toNat (rd rs : Fin 16) :
    (encode (.copy rd rs)).toNat = 0x6000 + 0x100 * rd.val + 0x10 * rs.val := by
  simp [encode, formatA_toNat]

theorem encode_updb_toNat (rd : Fin 16) (b : Byte) :
    (encode (.updb rd b)).toNat = 0x7000 + 0x100 * rd.val + b.toNat := by
  simp [encode, formatI_toNat]

theorem encode_updw_toNat (rd : Fin 16) {n : Nat} (hn : n ≤ 8) :
    (encode (.updw rd n)).toNat = 0x8000 + 0x100 * rd.val + n := by
  simp [encode, formatA_toNat, Nat.mod_eq_of_lt (show n < 16 by omega)]

theorem encode_crcval_toNat (rs : Fin 16) : (encode (.crcval rs)).toNat = 0x9000 + 0x10 * rs.val := by
  simp [encode, formatA_toNat]

theorem encode_digest_toNat (rs : Fin 16) : (encode (.digest rs)).toNat = 0xA000 + 0x10 * rs.val := by
  simp [encode, formatA_toNat]

theorem encode_hexdig_toNat (rs : Fin 16) : (encode (.hexdig rs)).toNat = 0xB000 + 0x10 * rs.val := by
  simp [encode, formatA_toNat]

/-- Settles O3: the words without an operand are computed, the others are the sums of their fields. -/
theorem wordsOfTheAssemblerTable : Obligations.WordsOfTheAssemblerTable :=
  ⟨rfl, rfl, rfl, rfl, encode_build_toNat, rfl, rfl, rfl, rfl, rfl, rfl, rfl, encode_rdtbl_toNat, encode_new_toNat,
    encode_copy_toNat, encode_updb_toNat, fun rd _ hn => encode_updw_toNat rd hn, encode_crcval_toNat,
    encode_digest_toNat, encode_hexdig_toNat⟩

/-! ## The decoder reads back the encoder -/

/-- Settles O1: the opcode field selects the format, and each field of it is read where the encoder put it. -/
theorem decodeReadsBackEncode : Obligations.DecodeReadsBackEncode := by
  intro i hwf
  cases i with
  | build r => cases r <;> rfl
  | rdtbl idx => simp [encode, formatT_eq, decode, decodeRdtbl]
  | new rd => simp [encode, decode, decodeNew]
  | copy rd rs => simp [encode, decode, decodeCopy]
  | updb rd imm8 => simp [encode, decode, decodeUpdb]
  | updw rd n =>
    have hn : n ≤ 8 := of_decide_eq_true hwf
    have hfn : n % 16 = n := Nat.mod_eq_of_lt (by omega)
    simp [encode, decode, decodeUpdw, hfn, hn]
  | crcval rs | digest rs | hexdig rs => simp [encode, decode, decodeRead]
  | _ => rfl

/-! ## The fields of a word on naturals (R47) -/

theorem opField_toNat (c : CmdWord) : (opField c).toNat = c.toNat / 4096 := by
  rw [opField, BitVec.extractLsb'_toNat, Nat.shiftRight_eq_div_pow]; omega

theorem rdField_toNat (c : CmdWord) : (rdField c).toNat = c.toNat / 256 % 16 := by
  rw [rdField, BitVec.extractLsb'_toNat, Nat.shiftRight_eq_div_pow]

theorem rsField_toNat (c : CmdWord) : (rsField c).toNat = c.toNat / 16 % 16 := by
  rw [rsField, BitVec.extractLsb'_toNat, Nat.shiftRight_eq_div_pow]

theorem fnField_toNat (c : CmdWord) : (fnField c).toNat = c.toNat % 16 := by
  rw [fnField, BitVec.extractLsb'_toNat, Nat.shiftRight_zero]

theorem lowByte_toNat (c : CmdWord) : (lowByte c).toNat = c.toNat % 256 := by
  rw [lowByte, BitVec.extractLsb'_toNat, Nat.shiftRight_zero]

theorem rFlag_toNat (c : CmdWord) : (rFlag c).toNat = c.toNat % 2 := by
  rw [rFlag, BitVec.getLsbD, Nat.toNat_testBit, Nat.pow_zero, Nat.div_one]

theorem accIndex_val (f : Nibble) : (accIndex f).val = f.toNat := rfl

theorem rdField_eq_zero {c : CmdWord} : rdField c = 0 ↔ c.toNat / 256 % 16 = 0 := by
  rw [BitVec.toNat_eq, rdField_toNat]; rfl

theorem rsField_eq_zero {c : CmdWord} : rsField c = 0 ↔ c.toNat / 16 % 16 = 0 := by
  rw [BitVec.toNat_eq, rsField_toNat]; rfl

theorem fnField_eq_zero {c : CmdWord} : fnField c = 0 ↔ c.toNat % 16 = 0 := by
  rw [BitVec.toNat_eq, fnField_toNat]; rfl

theorem lowByte_eq_zero {c : CmdWord} : lowByte c = 0 ↔ c.toNat % 256 = 0 := by
  rw [BitVec.toNat_eq, lowByte_toNat]; rfl

theorem buildMbz_eq_zero {c : CmdWord} : buildMbz c = 0 ↔ c.toNat % 4096 / 2 = 0 := by
  rw [BitVec.toNat_eq, buildMbz, BitVec.extractLsb'_toNat, Nat.shiftRight_eq_div_pow, BitVec.ofNat_eq_ofNat,
    BitVec.toNat_zero]
  omega

/-! ## What the decoder reads, format by format -/

/-- The answer `r` is a right reading of the word `c`: a well-formed command whose word is `c`, or the refusal of a word
that is listed as illegal (R47, R49). -/
def ReadsRight (c : CmdWord) (r : Except Illegal Instr) : Prop :=
  match r with
  | .ok i => i.wf = true ∧ encode i = c
  | .error _ => illegalWord c.toNat

theorem ReadsRight.command {c : CmdWord} {i : Instr} (hwf : i.wf = true) (h : (encode i).toNat = c.toNat) :
    ReadsRight c (.ok i) := ⟨hwf, BitVec.eq_of_toNat_eq h⟩

theorem ReadsRight.refusal {c : CmdWord} {e : Illegal} (h : illegalWord c.toNat) : ReadsRight c (.error e) := h

theorem decodeWrspec_readsRight {c : CmdWord} (hop : c.toNat / 4096 = 0x1) : ReadsRight c (decodeWrspec c) := by
  simp only [decodeWrspec, ne_eq, lowByte_eq_zero, rdField_toNat]
  split
  case isTrue hmbz => exact .refusal (by simp [illegalWord, hop, hmbz])
  case isFalse hmbz =>
    have hword : 0x1000 + 0x100 * (c.toNat / 256 % 16) = c.toNat := by omega
    split
    case h_5 =>
      have hsel : 4 ≤ c.toNat / 256 % 16 := by simp only [imp_false] at *; omega
      exact .refusal (by simp [illegalWord, hop, hsel])
    all_goals rename_i hsel; exact .command rfl (by rw [← hword, hsel]; rfl)

theorem decodeRdspec_readsRight {c : CmdWord} (hop : c.toNat / 4096 = 0x3) : ReadsRight c (decodeRdspec c) := by
  simp only [decodeRdspec, ne_eq, lowByte_eq_zero, rdField_toNat]
  split
  case isTrue hmbz => exact .refusal (by simp [illegalWord, hop, hmbz])
  case isFalse hmbz =>
    have hword : 0x3000 + 0x100 * (c.toNat / 256 % 16) = c.toNat := by omega
    split
    case h_8 =>
      have hsel : 7 ≤ c.toNat / 256 % 16 := by simp only [imp_false] at *; omega
      exact .refusal (by simp [illegalWord, hop, hsel])
    all_goals rename_i hsel; exact .command rfl (by rw [← hword, hsel]; rfl)

theorem decodeBuild_readsRight {c : CmdWord} (hop : c.toNat / 4096 = 0x2) : ReadsRight c (decodeBuild c) := by
  simp only [decodeBuild, ne_eq, buildMbz_eq_zero]
  split
  case isTrue hmbz => exact .refusal (by simp [illegalWord, hop, hmbz])
  case isFalse hmbz => exact .command rfl (by rw [encode_build_toNat, rFlag_toNat]; omega)

theorem decodeRdtbl_readsRight {c : CmdWord} (hop : c.toNat / 4096 = 0x4) : ReadsRight c (decodeRdtbl c) := by
  simp only [decodeRdtbl, ne_eq, rdField_eq_zero]
  split
  case isTrue hmbz => exact .refusal (by simp [illegalWord, hop, hmbz])
  case isFalse hmbz => exact .command rfl (by rw [encode_rdtbl_toNat, lowByte_toNat]; omega)

theorem decodeNew_readsRight {c : CmdWord} (hop : c.toNat / 4096 = 0x5) : ReadsRight c (decodeNew c) := by
  simp only [decodeNew, ne_eq, lowByte_eq_zero]
  split
  case isTrue hmbz => exact .refusal (by simp [illegalWord, hop, hmbz])
  case isFalse hmbz => exact .command rfl (by rw [encode_new_toNat, accIndex_val, rdField_toNat]; omega)

theorem decodeCopy_readsRight {c : CmdWord} (hop : c.toNat / 4096 = 0x6) : ReadsRight c (decodeCopy c) := by
  simp only [decodeCopy, ne_eq, fnField_eq_zero]
  split
  case isTrue hmbz => exact .refusal (by simp [illegalWord, hop, hmbz])
  case isFalse hmbz =>
    exact .command rfl (by
      rw [encode_copy_toNat, accIndex_val, accIndex_val, rdField_toNat, rsField_toNat]; omega)

theorem decodeUpdb_readsRight {c : CmdWord} (hop : c.toNat / 4096 = 0x7) : ReadsRight c (decodeUpdb c) :=
  .command rfl (by rw [encode_updb_toNat, accIndex_val, rdField_toNat, lowByte_toNat]; omega)

theorem decodeUpdw_readsRight {c : CmdWord} (hop : c.toNat / 4096 = 0x8) : ReadsRight c (decodeUpdw c) := by
  simp only [decodeUpdw, ne_eq, rsField_eq_zero, fnField_toNat]
  split
  case isTrue hmbz => exact .refusal (by simp [illegalWord, hop, hmbz])
  case isFalse hmbz =>
    split
    case isTrue hn =>
      have hcount : 9 ≤ c.toNat % 16 := by omega
      exact .refusal (by simp [illegalWord, hop, hcount])
    case isFalse hn =>
      have hle : c.toNat % 16 ≤ 8 := by omega
      exact .command (decide_eq_true hle) (by rw [encode_updw_toNat _ hle, accIndex_val, rdField_toNat]; omega)

/-- The three reads share one format; `op` is the opcode of the command `mk`. -/
theorem decodeRead_readsRight {c : CmdWord} {mk : Fin 16 → Instr} {op : Nat} (hwf : ∀ rs, (mk rs).wf = true)
    (henc : ∀ rs, (encode (mk rs)).toNat = 0x1000 * op + 0x10 * rs.val) (hread : op = 0x9 ∨ op = 0xA ∨ op = 0xB)
    (hop : c.toNat / 4096 = op) : ReadsRight c (decodeRead mk c) := by
  have hillegal : c.toNat / 256 % 16 ≠ 0 ∨ c.toNat % 16 ≠ 0 → illegalWord c.toNat := by
    obtain rfl | rfl | rfl := hread <;> simp [illegalWord, hop]
  simp only [decodeRead, ne_eq, rdField_eq_zero, fnField_eq_zero]
  split
  case isTrue hmbz => exact .refusal (hillegal (.inl hmbz))
  case isFalse hrd =>
    split
    case isTrue hmbz => exact .refusal (hillegal (.inr hmbz))
    case isFalse hfn => exact .command (hwf _) (by rw [henc, accIndex_val, rsField_toNat]; omega)

/-- The decoder reads every word right (R55). -/
theorem decode_readsRight (c : CmdWord) : ReadsRight c (decode c) := by
  simp only [decode, opField_toNat]
  split
  case h_1 hop => exact decodeWrspec_readsRight hop
  case h_2 hop => exact decodeBuild_readsRight hop
  case h_3 hop => exact decodeRdspec_readsRight hop
  case h_4 hop => exact decodeRdtbl_readsRight hop
  case h_5 hop => exact decodeNew_readsRight hop
  case h_6 hop => exact decodeCopy_readsRight hop
  case h_7 hop => exact decodeUpdb_readsRight hop
  case h_8 hop => exact decodeUpdw_readsRight hop
  case h_9 hop => exact decodeRead_readsRight (fun _ => rfl) encode_crcval_toNat (.inl rfl) hop
  case h_10 hop => exact decodeRead_readsRight (fun _ => rfl) encode_digest_toNat (.inr (.inl rfl)) hop
  case h_11 hop => exact decodeRead_readsRight (fun _ => rfl) encode_hexdig_toNat (.inr (.inr rfl)) hop
  case h_12 =>
    have hlt : c.toNat / 4096 < 16 := by omega
    exact .refusal (by unfold illegalWord; interval_cases hop : c.toNat / 4096 <;> simp_all)

/-- Settles O2: a command read is read right. -/
theorem encodeRestoresLegalWord : Obligations.EncodeRestoresLegalWord := by
  intro c i h
  have hread : ReadsRight c (.ok i) := h ▸ decode_readsRight c
  exact hread

/-- A word the decoder refuses is a listed one. -/
theorem illegalWord_of_decode_error {c : CmdWord} {e : Illegal} (h : decode c = .error e) : illegalWord c.toNat := by
  have hread : ReadsRight c (.error e) := h ▸ decode_readsRight c
  exact hread

/-! ## The opcode map (R48) -/

/-- A field of a word that matches, where the mask is all ones, is the field of the match. -/
theorem field_of_and_eq {c m v : CmdWord} (h : c &&& m = v) {k n : Nat} {f : BitVec n}
    (hmask : m.extractLsb' k n = BitVec.allOnes n) (hmatch : v.extractLsb' k n = f) : c.extractLsb' k n = f := by
  rw [← hmatch, ← h, BitVec.extractLsb'_and, hmask, BitVec.and_allOnes]

/-- Every row fixes the opcode. -/
theorem opField_mask (i : Instr) : opField i.mask = BitVec.allOnes 4 := by
  cases i <;> simp [Instr.mask, opField]

/-- A word that matches the row of a command is not a listed one. -/
theorem not_illegalWord_of_matchesRow {c : CmdWord} {i : Instr} (h : matchesRow c (i.mask, i.matchBits)) :
    ¬ illegalWord c.toNat := by
  obtain ⟨hrow, hcount⟩ := h
  have hop : c.toNat / 4096 = (opField i.matchBits).toNat := by
    rw [← opField_toNat]; exact congrArg BitVec.toNat (field_of_and_eq hrow (opField_mask i) rfl)
  cases i with
  | build r =>
    have hmbz := buildMbz_eq_zero.1 (field_of_and_eq (m := 0xFFFE) (v := 0x2000) hrow (by decide) (by decide))
    simp [illegalWord, hop, hmbz, opField, Instr.matchBits]
  | rdtbl idx =>
    have hmbz := rdField_eq_zero.1 (field_of_and_eq (m := 0xFF00) (v := 0x4000) hrow (by decide) (by decide))
    simp [illegalWord, hop, hmbz, opField, Instr.matchBits]
  | new rd =>
    have hmbz := lowByte_eq_zero.1 (field_of_and_eq (m := 0xF0FF) (v := 0x5000) hrow (by decide) (by decide))
    simp [illegalWord, hop, hmbz, opField, Instr.matchBits]
  | copy rd rs =>
    have hmbz := fnField_eq_zero.1 (field_of_and_eq (m := 0xF00F) (v := 0x6000) hrow (by decide) (by decide))
    simp [illegalWord, hop, hmbz, opField, Instr.matchBits]
  | updb rd b => simp [illegalWord, hop, opField, Instr.matchBits]
  | updw rd n =>
    have hmbz := rsField_eq_zero.1 (field_of_and_eq (m := 0xF0F0) (v := 0x8000) hrow (by decide) (by decide))
    have hn : c.toNat % 16 < 9 := Nat.lt_succ_of_le (hcount rfl)
    simp [illegalWord, hop, hmbz, hn, opField, Instr.matchBits]
  | crcval rs | digest rs | hexdig rs =>
    have hrd := rdField_eq_zero.1 (field_of_and_eq (m := 0xFF0F) hrow (by decide) (by simp [Instr.matchBits]))
    have hfn := fnField_eq_zero.1 (field_of_and_eq (m := 0xFF0F) hrow (by decide) (by simp [Instr.matchBits]))
    simp [illegalWord, hop, hrd, hfn, opField, Instr.matchBits]
  | _ =>
    have hword : c = _ := BitVec.and_allOnes.symm.trans hrow
    subst hword; simp [illegalWord, Instr.matchBits]

/-- Two rows that one word matches have matches that agree where both masks fix a bit; no two rows of the map do. -/
theorem opcodeRows_disjoint : ∀ a b : Fin opcodeRows.length,
    (opcodeRows.get a).2 &&& (opcodeRows.get b).1 = (opcodeRows.get b).2 &&& (opcodeRows.get a).1 → a = b := by
  decide

theorem mask_matchBits_mem (i : Instr) : (i.mask, i.matchBits) ∈ opcodeRows := by
  cases i <;> simp [opcodeRows, Instr.mask, Instr.matchBits]

theorem encode_and_mask (i : Instr) : encode i &&& i.mask = i.matchBits :=
  match i with
  | .wrspecWidth => Laws.EncodingRow.wrspecWidth
  | .wrspecPoly => Laws.EncodingRow.wrspecPoly
  | .wrspecInit => Laws.EncodingRow.wrspecInit
  | .wrspecXorout => Laws.EncodingRow.wrspecXorout
  | .build r => Laws.EncodingRow.build r
  | .rdspecWidth => Laws.EncodingRow.rdspecWidth
  | .rdspecPoly => Laws.EncodingRow.rdspecPoly
  | .rdspecInit => Laws.EncodingRow.rdspecInit
  | .rdspecXorout => Laws.EncodingRow.rdspecXorout
  | .rdspecRefl => Laws.EncodingRow.rdspecRefl
  | .rdspecRpoly => Laws.EncodingRow.rdspecRpoly
  | .rdspecStatus => Laws.EncodingRow.rdspecStatus
  | .rdtbl idx => Laws.EncodingRow.rdtbl idx
  | .new rd => Laws.EncodingRow.new rd
  | .copy rd rs => Laws.EncodingRow.copy rd rs
  | .updb rd b => Laws.EncodingRow.updb rd b
  | .updw rd n => Laws.EncodingRow.updw rd n
  | .crcval rs => Laws.EncodingRow.crcval rs
  | .digest rs => Laws.EncodingRow.digest rs
  | .hexdig rs => Laws.EncodingRow.hexdig rs

/-- The word of a well-formed command matches the row of that command. -/
theorem encode_matchesRow {i : Instr} (hwf : i.wf = true) : matchesRow (encode i) (i.mask, i.matchBits) := by
  refine ⟨encode_and_mask i, ?_⟩
  cases i with
  | updw rd n =>
    have hn : n ≤ 8 := of_decide_eq_true hwf
    intro _
    rw [encode_updw_toNat rd hn]; omega
  | _ => simp [Instr.matchBits]


/-- A command that is read matches the row of that command. -/
theorem matchesRow_of_decode {c : CmdWord} {i : Instr} (h : decode c = .ok i) :
    matchesRow c (i.mask, i.matchBits) := by
  obtain ⟨hwf, rfl⟩ := encodeRestoresLegalWord c i h
  exact encode_matchesRow hwf

/-- A word is a command exactly when it is not a listed one (R49, R55). -/
theorem exists_decode_iff {c : CmdWord} : (∃ i, decode c = .ok i) ↔ ¬ illegalWord c.toNat := by
  constructor
  · rintro ⟨i, h⟩
    exact not_illegalWord_of_matchesRow (matchesRow_of_decode h)
  · intro h
    cases hd : decode c with
    | ok i => exact ⟨i, rfl⟩
    | error e => exact absurd (illegalWord_of_decode_error hd) h

/-- One command of each row of the opcode map. -/
def rowCommands : List Instr :=
  [.wrspecWidth, .wrspecPoly, .wrspecInit, .wrspecXorout, .build false, .rdspecWidth, .rdspecPoly, .rdspecInit,
   .rdspecXorout, .rdspecRefl, .rdspecRpoly, .rdspecStatus, .rdtbl 0, .new 0, .copy 0 0, .updb 0 0, .updw 0 0,
   .crcval 0, .digest 0, .hexdig 0]

theorem opcodeRows_eq_map : opcodeRows = rowCommands.map fun i => (i.mask, i.matchBits) := rfl

/-- Settles O4: a word that matches two rows makes their matches agree where both masks fix a bit, so they are one row;
a word that matches a row is not a listed one, and so is a command. -/
theorem opcodeMapDecidesDecoding : Obligations.OpcodeMapDecidesDecoding := by
  refine ⟨fun c a b ha hb => opcodeRows_disjoint a b ?_, fun c => ⟨?_, ?_⟩,
    fun c i h => ⟨mask_matchBits_mem i, matchesRow_of_decode h⟩⟩
  · rw [← ha.1, ← hb.1, BitVec.and_assoc, BitVec.and_assoc, BitVec.and_comm (opcodeRows.get a).1]
  · rintro ⟨i, h⟩
    exact ⟨_, mask_matchBits_mem i, matchesRow_of_decode h⟩
  · rintro ⟨row, hmem, hrow⟩
    rw [opcodeRows_eq_map] at hmem
    obtain ⟨i, -, rfl⟩ := List.mem_map.1 hmem
    exact exists_decode_iff.2 (not_illegalWord_of_matchesRow hrow)

end Sys2Proof

namespace Sys2Proof.Machine

open Sys2Proof.Spec

/-! ## The step on a listed word -/

/-- Settles O7: a listed word is no command, and the step then takes the one fault; every other word is a command. -/
theorem illegalWordsRaiseIllegalCommand : Obligations.IllegalWordsRaiseIllegalCommand := by
  intro s c rest hin
  refine ⟨fun hbad => ?_, exists_decode_iff.2⟩
  cases hd : decode c.cmd with
  | error e => exact step_illegal hin hd
  | ok i => exact absurd hbad (exists_decode_iff.1 ⟨i, hd⟩)

/-! ## The response of a command -/

@[simp] theorem writes_input (s : State) (i : Instr) : (writes s i).input = s.input := by cases i <;> rfl
@[simp] theorem writes_responses (s : State) (i : Instr) : (writes s i).responses = s.responses := by cases i <;> rfl

/-- Two characters a digest byte (R108). -/
theorem hexBytes_length (d : List Byte) : (hexBytes d).length = 2 * d.length := by
  simp [hexBytes, List.length_flatMap, Nat.mul_comm]

/-- Only RDSPEC, RDTBL and CRCVAL answer a number (R51). -/
theorem rdataOf_ne_zero {s : State} {i : Instr} (h : rdataOf s i ≠ 0) :
    readsOnly i = true ∧ ∀ rs, i ≠ .digest rs ∧ i ≠ .hexdig rs := by
  cases i with
  | rdspecWidth | rdspecPoly | rdspecInit | rdspecXorout | rdspecRefl | rdspecRpoly | rdspecStatus | rdtbl idx
  | crcval rs => simp [readsOnly]
  | _ => exact absurd rfl h

/-- Only DIGEST and HEXDIG answer bytes (R51). -/
theorem obytesOf_ne_nil {s : State} {i : Instr} (h : obytesOf s i ≠ []) : ∃ rs, i = .digest rs ∨ i = .hexdig rs := by
  cases i with
  | digest rs => exact ⟨rs, .inl rfl⟩
  | hexdig rs => exact ⟨rs, .inr rfl⟩
  | _ => exact absurd rfl h

/-- With a width of at most 64 bits a digest has at most 8 bytes, and 16 characters (R11). -/
theorem obytesOf_length_le {s : State} {i : Instr} (hw : s.width.toNat ≤ 64) : (obytesOf s i).length ≤ 16 := by
  cases i with
  | digest rs => simp only [obytesOf, digestBytes_length]; omega
  | hexdig rs => simp only [obytesOf, hexBytes_length, digestBytes_length]; omega
  | _ => exact Nat.zero_le 16

/-- Under the invariants a command that passed its tests answers at most 16 bytes: one that answers any needs the active
spec, whose width is admitted. -/
theorem State.Inv.obytesOf_length_le {s : State} {i : Instr} (h : s.Inv) (hp : firstFault (tests s i) = none) :
    (obytesOf s i).length ≤ 16 := by
  by_cases hnil : obytesOf s i = []
  · simp [hnil]
  · have hneeds : needsSpec i = true := by
      obtain ⟨rs, rfl | rfl⟩ := obytesOf_ne_nil hnil <;> rfl
    have hvalid : s.valid = true := ((tests_pass_iff.1 hp).2 hneeds).1
    exact Machine.obytesOf_length_le (h.spec hvalid).width_admitted.2.1

/-- Settles O10: the response is the one of a fault, or the data and bytes of a command that passed its tests. -/
theorem oneResponsePerCommand : Obligations.OneResponsePerCommand := by
  intro s c rest hin
  cases hd : decode c.cmd with
  | error e =>
    exact ⟨_, _, step_illegal hin hd, rfl, rfl, fun _ => ⟨rfl, rfl⟩, by simp, by simp, by simp⟩
  | ok i =>
    rw [step_legal hin hd]
    cases hf : firstFault (tests (s.accept c rest) i) with
    | some cause => exact ⟨_, _, exec_fail hf, rfl, rfl, fun _ => ⟨rfl, rfl⟩, by simp, by simp, by simp⟩
    | none =>
      refine ⟨_, ⟨0, rdataOf (s.accept c rest) i, obytesOf (s.accept c rest) i⟩, exec_pass hf, by simp, by simp,
        fun hstatus => absurd rfl hstatus, fun h => ?_, fun h => ?_, fun hinv => ?_⟩
      · exact ⟨i, rfl, rdataOf_ne_zero h⟩
      · obtain ⟨rs, rfl | rfl⟩ := obytesOf_ne_nil h
        · exact ⟨rs, .inl rfl⟩
        · exact ⟨rs, .inr rfl⟩
      · have haccept : (s.accept c rest).Inv := hinv.of_committed rfl rfl fun _ => hinv.mayHold
        exact haccept.obytesOf_length_le hf

/-! ## The data operand -/

/-- No test reads the data operand, and no response carries it (R50). -/
theorem tests_wdata (s : State) (v : Word) (i : Instr) : tests { s with wdata := v } i = tests s i := by
  cases i <;> rfl

theorem rdataOf_wdata (s : State) (v : Word) (i : Instr) : rdataOf { s with wdata := v } i = rdataOf s i := by
  cases i <;> rfl

theorem obytesOf_wdata (s : State) (v : Word) (i : Instr) : obytesOf { s with wdata := v } i = obytesOf s i := by
  cases i <;> rfl

/-- A command whose writes are the same with the data operand `v` does the same with it. -/
theorem exec_wdata {i : Instr} {s t : State} {v : Word}
    (hwrites : writes { s with wdata := v } i = { writes s i with wdata := v }) (h : exec i s = .next t) :
    exec i { s with wdata := v } = .next { t with wdata := v } := by
  obtain ⟨c, hf, rfl⟩ | ⟨hp, rfl⟩ := exec_cases h
  · rw [← tests_wdata s v] at hf
    exact exec_fail hf
  · rw [← tests_wdata s v] at hp
    rw [exec_pass hp, hwrites, rdataOf_wdata, obytesOf_wdata]
    rfl

/-- The writes of a command other than WRSPEC and UPDW do not depend on the data operand (R50). -/
theorem writes_wdata {i : Instr} (hi : usesWdata i = false) (s : State) (v : Word) :
    writes { s with wdata := v } i = { writes s i with wdata := v } := by
  cases i with
  | wrspecWidth | wrspecPoly | wrspecInit | wrspecXorout | updw rd n => cases hi
  | _ => rfl

/-- Lane k is one of the low n bytes when k < n (R36). -/
theorem laneNat_mod {k n : Nat} (h : k < n) (v : Nat) : laneNat (v % 2 ^ (8 * n)) k = laneNat v k := by
  have hsplit : 2 ^ (8 * n) = 2 ^ (8 * k) * 2 ^ (8 * (n - k)) := by rw [← pow_add]; congr 1; omega
  have hbyte : 256 ∣ 2 ^ (8 * (n - k)) := pow_dvd_pow 2 (show 8 ≤ 8 * (n - k) by omega)
  rw [laneNat, hsplit, Nat.mod_mul_right_div_self, Nat.mod_mod_of_dvd _ hbyte, laneNat]

/-- Data operands that agree in the low n bytes have the same lanes 0 to n-1. -/
theorem lane_eq_of_mod_eq {v w : Word} {n : Nat} (h : v.toNat % 2 ^ (8 * n) = w.toNat % 2 ^ (8 * n)) {k : Nat}
    (hk : k < n) : lane v k = lane w k :=
  BitVec.eq_of_toNat_eq (by rw [lane_toNat, lane_toNat, ← laneNat_mod hk, h, laneNat_mod hk])

/-- The update over n lanes reads no lane from n on (R36, R104). -/
theorem updLanes_wdata {s : State} {v : Word} {n : Nat}
    (h : v.toNat % 2 ^ (8 * n) = s.wdata.toNat % 2 ^ (8 * n)) (reg : Word) :
    updLanes { s with wdata := v } reg n = updLanes s reg n :=
  List.foldl_ext _ _ _ fun r _ hk => congrArg (upd1 s r) (lane_eq_of_mod_eq h (List.mem_range.1 hk))

/-- Settles O46: what a command does with another data operand is decided by its writes, which use it in WRSPEC and in
the lanes of UPDW only. -/
theorem unusedDataOperandIsIgnored : Obligations.UnusedDataOperandIsIgnored := by
  refine ⟨fun i s t v hi => exec_wdata (writes_wdata hi s v), fun rd n s t v hv => exec_wdata ?_⟩
  exact congrArg (fun w => { s.setX rd w with wdata := v }) (updLanes_wdata hv (s.getX rd))

end Sys2Proof.Machine
end

section
/-!
PROOFS of the family `40_parameter_model.md`: the widths that are valid, the masking of a value, and the commands that
write the staging registers and read the active spec.
-/
namespace Sys2Proof.Machine

open Sys2Proof.Spec

/-! ## Validation and normalisation -/

/-- W_ADMIT, listed (R6). -/
theorem admitted_iff_mem {w : Nat} : Admitted w ↔ w ∈ [8, 16, 24, 32, 40, 48, 56, 64] := by
  simp only [Admitted, List.mem_cons, List.not_mem_nil, or_false]
  omega

/-- The validity test of a 64-bit value, on naturals (R65). -/
theorem validWidth_iff {w : Word} : validWidth w = true ↔ Admitted w.toNat := decide_eq_true_iff

/-- Settles O14: the test is membership in W_ADMIT, and `norm` is the remainder whatever the width. The two values that
differ only in the explicit top bit of a polynomial of width 16 have one remainder. -/
theorem widthsAdmittedAndValuesMasked : Obligations.WidthsAdmittedAndValuesMasked := by
  refine ⟨fun w => validWidth_iff.trans admitted_iff_mem, fun v w _ => norm_toNat v w, BitVec.eq_of_toNat_eq ?_⟩
  rw [norm_toNat, norm_toNat]
  rfl

/-! ## The commands on the specification -/

/-- Settles O11: the words are those the encoder gives, and a WRSPEC makes no test, so that its one write and its
response happen in every state (R71). -/
theorem wrspecWritesItsStagingRegister : Obligations.WrspecWritesItsStagingRegister := fun _ =>
  ⟨decodeReadsBackEncode .wrspecWidth rfl, decodeReadsBackEncode .wrspecPoly rfl,
    decodeReadsBackEncode .wrspecInit rfl, decodeReadsBackEncode .wrspecXorout rfl,
    exec_pass (i := .wrspecWidth) rfl, exec_pass (i := .wrspecPoly) rfl,
    exec_pass (i := .wrspecInit) rfl, exec_pass (i := .wrspecXorout) rfl⟩

/-- A command that needs the active spec and names no accumulator completes once VALID = 1 (R72, R97). -/
theorem exec_of_valid {i : Instr} {s : State} (h : needsSpec i = true) (hused : usedIndices i = [])
    (hread : readIndices i = []) (hv : s.valid = true) :
    exec i s = .next ((writes s i).respond (rdataOf s i) (obytesOf s i)) :=
  exec_of_ready h hv ⟨by simp [hused], by simp [hread]⟩

/-- Bit j of RPOLY (R17, R80). -/
theorem SpecInv.rpoly_getLsbD {s : State} (h : SpecInv s) (j : Nat) :
    s.rpoly.getLsbD j = (decide (j < s.width.toNat) && s.poly.getLsbD (s.width.toNat - 1 - j)) := by
  rw [h.rpoly_eq, reflect_getLsbD s.poly h.width_admitted.2.1]

/-- Settles O12: the values read are as the spec invariants have them; each RDSPEC but STATUS needs the active spec and
no accumulator, so VALID alone decides between its answer and NotConfigured. -/
theorem rdspecReadsActiveSpec : Obligations.RdspecReadsActiveSpec := by
  intro s
  refine ⟨decodeReadsBackEncode .rdspecWidth rfl, decodeReadsBackEncode .rdspecPoly rfl,
    decodeReadsBackEncode .rdspecInit rfl, decodeReadsBackEncode .rdspecXorout rfl,
    decodeReadsBackEncode .rdspecRefl rfl, decodeReadsBackEncode .rdspecRpoly rfl,
    fun hinv hv => ?_,
    fun hv => ⟨?_, exec_of_valid rfl rfl rfl hv, exec_of_valid rfl rfl rfl hv, exec_of_valid rfl rfl rfl hv,
      exec_of_valid rfl rfl rfl hv, exec_of_valid rfl rfl rfl hv⟩,
    fun hv i hi => ?_⟩
  · have hs : SpecInv s := hinv.spec hv
    exact ⟨hs.width_admitted, hs.poly_lt, hs.init_lt, hs.xorout_lt, hs.rpoly_getLsbD⟩
  · rw [BitVec.ofNat_toNat]
    exact exec_of_valid rfl rfl rfl hv
  · have hneeds : ∀ i ∈ [Instr.rdspecWidth, .rdspecPoly, .rdspecInit, .rdspecXorout, .rdspecRefl, .rdspecRpoly],
        needsSpec i = true := by decide
    exact (admissionChecked_of_needsSpec (hneeds i hi) s).1 hv

end Sys2Proof.Machine
end

section
/-!
PROOFS of the family `41_reflect_and_gf2_units.md`: the laws of `reflect`, the division steps on naturals, their
linearity, the mirror law, and the table entry as a remainder of polynomial division.
-/
namespace Sys2Proof.Machine

open Sys2Proof.Spec Polynomial

/-! ## The reflection -/

/-- Settles O15: `reflect_getLsbD` has it for every width up to 64. -/
theorem reflectReversesLowBits : Obligations.ReflectReversesLowBits :=
  fun v _ i _ hn => reflect_getLsbD v hn i

/-- The unit is its own inverse on the low n bits (R81 (b)). -/
theorem reflect_reflect (v : Word) {n : Nat} (hn : n ≤ 64) : reflect (reflect v n) n = norm v n := by
  refine BitVec.eq_of_getLsbD_eq fun j _ => ?_
  rw [reflect_getLsbD _ hn, reflect_getLsbD v hn, norm_getLsbD]
  by_cases hj : j < n
  · have hback : n - 1 - (n - 1 - j) = j := by omega
    have hmirror : n - 1 - j < n := by omega
    simp [hback, hmirror, hj]
  · simp [hj]

/-- Reflection distributes over XOR (R81 (c)). -/
theorem reflect_xor (a b : Word) {n : Nat} (hn : n ≤ 64) : reflect (a ^^^ b) n = reflect a n ^^^ reflect b n := by
  refine BitVec.eq_of_getLsbD_eq fun j _ => ?_
  simp only [reflect_getLsbD _ hn, BitVec.getLsbD_xor, Bool.and_xor_distrib_left]

/-- Reflection fixes 0 (R81 (c)). -/
theorem reflect_zero {n : Nat} (hn : n ≤ 64) : reflect 0 n = 0 := by
  refine BitVec.eq_of_getLsbD_eq fun j _ => ?_
  simp [reflect_getLsbD _ hn]

/-- Reflection fixes the mask (R81 (c)). -/
theorem reflect_mask {n : Nat} (hn : n ≤ 64) : reflect (mask n) n = mask n := by
  refine BitVec.eq_of_getLsbD_eq fun j hj => ?_
  rw [reflect_getLsbD _ hn, mask_getLsbD, mask_getLsbD]
  by_cases hjn : j < n
  · have hmirror : n - 1 - j < 64 ∧ n - 1 - j < n := by omega
    simp [hjn, hj, hmirror]
  · simp [hjn]

/-- Reflection takes the low end bit to the high one (R81 (d)). -/
theorem reflect_one {n : Nat} (h1 : 1 ≤ n) (hn : n ≤ 64) : reflect 1 n = BitVec.ofNat 64 (2 ^ (n - 1)) := by
  refine BitVec.eq_of_getLsbD_eq fun j hj => ?_
  have hend : (j < n ∧ n - 1 - j = 0) ↔ n - 1 = j := by omega
  rw [reflect_getLsbD _ hn, show (1 : Word) = 1#64 from rfl, BitVec.getLsbD_one, BitVec.getLsbD_ofNat,
    Nat.testBit_two_pow]
  simp [hj, ← hend]

/-- Reflection takes the high end bit to the low one, being its own inverse (R81 (d)). -/
theorem reflect_two_pow {n : Nat} (h1 : 1 ≤ n) (hn : n ≤ 64) : reflect (BitVec.ofNat 64 (2 ^ (n - 1))) n = 1 := by
  rw [← reflect_one h1 hn, reflect_reflect _ hn, norm_of_lt (Nat.one_lt_two_pow (by omega))]

/-- A left shift mirrors to a right shift: the bit that leaves the n low ones leaves at either end (R81 (e)). -/
theorem reflect_shiftLeft (v : Word) {n : Nat} (hn : n ≤ 64) : reflect (v <<< 1) n = reflect v n >>> 1 := by
  refine BitVec.eq_of_getLsbD_eq fun j _ => ?_
  rw [reflect_getLsbD _ hn, BitVec.getLsbD_shiftLeft, BitVec.getLsbD_ushiftRight, reflect_getLsbD _ hn,
    show n - 1 - (1 + j) = n - 1 - j - 1 by omega]
  by_cases hj : 1 + j < n
  · have hin : j < n ∧ n - 1 - j < 64 ∧ n - 1 - j ≠ 0 := by omega
    simp [hj, hin]
  · have hout : j < n → n - 1 - j = 0 := by omega
    simp +contextual [hj, hout]

/-- A right shift of an n-bit value mirrors to a masked left shift (R81 (e)). -/
theorem reflect_ushiftRight {v : Word} {n : Nat} (hn : n ≤ 64) (hv : v.toNat < 2 ^ n) :
    reflect (v >>> 1) n = norm (reflect v n <<< 1) n := by
  refine BitVec.eq_of_getLsbD_eq fun j hj => ?_
  rw [reflect_getLsbD _ hn, BitVec.getLsbD_ushiftRight, norm_getLsbD, BitVec.getLsbD_shiftLeft, reflect_getLsbD _ hn]
  cases j with
  | zero =>
    have htop : v.getLsbD (1 + (n - 1)) = false := (toNat_lt_two_pow_iff v n).1 hv _ (by omega)
    simp [htop]
  | succ j =>
    by_cases hjn : j + 1 < n
    · have hmirror : 1 + (n - 1 - (j + 1)) = n - 1 - j := by omega
      have hjn' : j < n := by omega
      simp [hmirror, hjn, hjn', hj]
    · simp [hjn]

/-- Settles O16: the laws are the lemmas above, each with the width it needs. -/
theorem reflectLaws : Obligations.ReflectLaws := by
  intro v a b n h1 hn
  have hone : (reflect 1 n).toNat = 2 ^ (n - 1) := by
    rw [reflect_one h1 hn, BitVec.toNat_ofNat, Nat.mod_eq_of_lt (Nat.pow_lt_pow_right (by decide) (by omega))]
  exact ⟨reflect_lt v hn, reflect_reflect v hn, reflect_xor a b hn, reflect_zero hn, reflect_mask hn, hone,
    reflect_two_pow h1 hn, fun _ => reflect_shiftLeft v hn, reflect_ushiftRight hn⟩

/-! ## The division steps -/

/-- The step, most significant bit first, on naturals (R82). -/
theorem gf2StepMsb_toNat {w : Nat} (hw : w ≤ 64) (p r : Word) : (gf2StepMsb p w r).toNat =
    if r.toNat.testBit (w - 1) then (r.toNat * 2 % 2 ^ w) ^^^ p.toNat else r.toNat * 2 % 2 ^ w := by
  have hshift : ((r <<< 1) &&& mask w).toNat = r.toNat * 2 % 2 ^ w := by
    rw [← norm, norm_toNat, BitVec.toNat_shiftLeft, Nat.shiftLeft_eq, pow_one, Nat.mod_mod_of_dvd _ (pow_dvd_pow 2 hw)]
  rw [← hshift, ← BitVec.toNat_xor]
  exact apply_ite BitVec.toNat _ _ _

/-- The step, least significant bit first, on naturals (R83). -/
theorem gf2StepLsb_toNat (q r : Word) : (gf2StepLsb q r).toNat =
    if r.toNat.testBit 0 then (r.toNat / 2) ^^^ q.toNat else r.toNat / 2 := by
  have hshift : (r >>> 1).toNat = r.toNat / 2 := by
    rw [BitVec.toNat_ushiftRight, Nat.shiftRight_eq_div_pow, pow_one]
  rw [← hshift, ← BitVec.toNat_xor]
  exact apply_ite BitVec.toNat _ _ _

/-- Settles O17: the steps on naturals, and that each keeps to the width. -/
theorem divisionStepsOnNaturals : Obligations.DivisionStepsOnNaturals := by
  intro w r p q hw
  exact ⟨gf2StepMsb_toNat hw.2.1 p r, gf2StepLsb_toNat q r, fun hp => gf2StepMsb_lt hp r, gf2StepLsb_lt⟩

/-- A conditional XOR, bit by bit. -/
theorem xorIf_getLsbD (c : Bool) (a p : Word) (j : Nat) :
    (if c then a ^^^ p else a).getLsbD j = (a.getLsbD j ^^ (c && p.getLsbD j)) := by
  cases c with
  | false => simp
  | true => simp

/-- Bit j of the step, most significant bit first: the bit below moves up, and the top bit brings in the polynomial
(R82). -/
theorem gf2StepMsb_getLsbD {w : Nat} (hw : w ≤ 64) (p r : Word) (j : Nat) : (gf2StepMsb p w r).getLsbD j =
    ((decide (0 < j) && decide (j < w) && r.getLsbD (j - 1)) ^^ (r.getLsbD (w - 1) && p.getLsbD j)) := by
  have hshift : ((r <<< 1) &&& mask w).getLsbD j = (decide (0 < j) && decide (j < w) && r.getLsbD (j - 1)) := by
    rw [← norm, norm_getLsbD, BitVec.getLsbD_shiftLeft]
    by_cases hj : j < w
    · have hj64 : j < 64 := by omega
      simp [hj, hj64, Nat.pos_iff_ne_zero]
    · simp [hj]
  rw [gf2StepMsb, xorIf_getLsbD, hshift]

/-- Bit j of the step, least significant bit first: the bit above moves down, and the low bit brings in the polynomial
(R83). -/
theorem gf2StepLsb_getLsbD (q r : Word) (j : Nat) : (gf2StepLsb q r).getLsbD j =
    (r.getLsbD (j + 1) ^^ (r.getLsbD 0 && q.getLsbD j)) := by
  rw [gf2StepLsb, xorIf_getLsbD, BitVec.getLsbD_ushiftRight, Nat.add_comm]

/-! ## The byte on the data path and in the top byte of a register -/

/-- The bits of a byte on the data path are its own (R9). -/
theorem byteWord_getLsbD (b : Byte) (i : Nat) : (byteWord b).getLsbD i = b.getLsbD i := by
  rw [byteWord, BitVec.getLsbD_setWidth]
  by_cases hi : i < 64
  · simp [hi]
  · simp [BitVec.getLsbD_of_ge b i (by omega)]

/-- Bit j of the byte in the top byte of a w-bit register (R84). -/
theorem placedByte_getLsbD {w : Nat} (hw : w ≤ 64) (b : Byte) (j : Nat) :
    (byteWord b <<< (w - 8)).getLsbD j = (decide (w - 8 ≤ j) && b.getLsbD (j - (w - 8))) := by
  rw [BitVec.getLsbD_shiftLeft, byteWord_getLsbD]
  by_cases hj : j < 64
  · by_cases hin : w - 8 ≤ j <;> simp [hj, hin]
  · simp [BitVec.getLsbD_of_ge b (j - (w - 8)) (by omega)]

/-- The byte in the top byte of a w-bit register, on naturals; it fits the width (R84). -/
theorem placedByte_toNat {w : Nat} (h8 : 8 ≤ w) (hw : w ≤ 64) (b : Byte) :
    (byteWord b <<< (w - 8)).toNat = b.toNat * 2 ^ (w - 8) ∧ (byteWord b <<< (w - 8)).toNat < 2 ^ w := by
  have hlt : b.toNat * 2 ^ (w - 8) < 2 ^ w := by
    calc b.toNat * 2 ^ (w - 8) < 2 ^ 8 * 2 ^ (w - 8) := Nat.mul_lt_mul_of_pos_right b.isLt (Nat.two_pow_pos _)
      _ = 2 ^ w := by rw [← pow_add, Nat.add_sub_cancel' h8]
  have hplaced : (byteWord b <<< (w - 8)).toNat = b.toNat * 2 ^ (w - 8) := by
    rw [BitVec.toNat_shiftLeft, Nat.shiftLeft_eq, byteWord_toNat,
      Nat.mod_eq_of_lt (hlt.trans_le (Nat.pow_le_pow_right (by decide) hw))]
  exact ⟨hplaced, hplaced ▸ hlt⟩

/-! ## Linearity -/

/-- The step, most significant bit first, is linear over GF(2): each of its bits is (R87). -/
theorem gf2StepMsb_linear {w : Nat} (hw : w ≤ 64) (p : Word) :
    Function.Semiconj₂ (gf2StepMsb p w) (· ^^^ ·) (· ^^^ ·) := by
  intro a b
  refine BitVec.eq_of_getLsbD_eq fun j _ => ?_
  simp only [BitVec.getLsbD_xor, gf2StepMsb_getLsbD hw, Bool.and_xor_distrib_left, Bool.and_xor_distrib_right,
    Bool.xor_assoc, Bool.xor_left_comm]

/-- The step, least significant bit first, is linear over GF(2): each of its bits is (R87). -/
theorem gf2StepLsb_linear (q : Word) : Function.Semiconj₂ (gf2StepLsb q) (· ^^^ ·) (· ^^^ ·) := by
  intro a b
  refine BitVec.eq_of_getLsbD_eq fun j _ => ?_
  simp only [BitVec.getLsbD_xor, gf2StepLsb_getLsbD, Bool.and_xor_distrib_right, Bool.xor_assoc, Bool.xor_left_comm]

/-- A function linear over GF(2) maps 0 to 0 (R87). -/
theorem map_zero_of_linear {f : Word → Word} (hf : Function.Semiconj₂ f (· ^^^ ·) (· ^^^ ·)) : f 0 = 0 := by
  have h : f (0 ^^^ 0) = f 0 ^^^ f 0 := hf 0 0
  rwa [BitVec.xor_self, BitVec.xor_self] at h

/-- Putting a byte on the data path is linear (R9). -/
theorem byteWord_xor (k l : Byte) : byteWord (k ^^^ l) = byteWord k ^^^ byteWord l := BitVec.setWidth_xor

/-- The unit, most significant bit first, is linear over GF(2): the placing of the byte and each step are (R87). -/
theorem gf2Reduce8Msb_xor {w : Nat} (hw : w ≤ 64) (p : Word) (k l : Byte) :
    gf2Reduce8Msb (k ^^^ l) p w = gf2Reduce8Msb k p w ^^^ gf2Reduce8Msb l p w := by
  rw [gf2Reduce8Msb, byteWord_xor, BitVec.shiftLeft_xor_distrib]
  exact (gf2StepMsb_linear hw p).iterate 8 _ _

/-- The unit, least significant bit first, is linear over GF(2) (R87). -/
theorem gf2Reduce8Lsb_xor (q : Word) (k l : Byte) :
    gf2Reduce8Lsb (k ^^^ l) q = gf2Reduce8Lsb k q ^^^ gf2Reduce8Lsb l q := by
  rw [gf2Reduce8Lsb, byteWord_xor]
  exact (gf2StepLsb_linear q).iterate 8 _ _

/-- With the zero polynomial a step, most significant bit first, only shifts (R82). -/
theorem gf2StepMsb_zero_toNat {w : Nat} (hw : w ≤ 64) (r : Word) : (gf2StepMsb 0 w r).toNat = r.toNat * 2 % 2 ^ w := by
  rw [gf2StepMsb_toNat hw]; exact ite_eq_right_iff.2 fun _ => Nat.xor_zero _

/-- With the zero polynomial a step, least significant bit first, only shifts (R83). -/
theorem gf2StepLsb_zero_toNat (r : Word) : (gf2StepLsb 0 r).toNat = r.toNat / 2 := by
  rw [gf2StepLsb_toNat]; exact ite_eq_right_iff.2 fun _ => Nat.xor_zero _

/-- k such steps of a w-bit register shift it by k bits (R87). -/
theorem iterate_gf2StepMsb_zero_toNat {w : Nat} (hw : w ≤ 64) {r : Word} (hr : r.toNat < 2 ^ w) (k : Nat) :
    ((gf2StepMsb 0 w)^[k] r).toNat = r.toNat * 2 ^ k % 2 ^ w := by
  induction k with
  | zero => rw [pow_zero, mul_one, Nat.mod_eq_of_lt hr, Function.iterate_zero_apply]
  | succ k ih => rw [Function.iterate_succ_apply', gf2StepMsb_zero_toNat hw, ih, Nat.mod_mul_mod, mul_assoc, ← pow_succ]

/-- k such steps of a register shift it by k bits (R87). -/
theorem iterate_gf2StepLsb_zero_toNat (r : Word) (k : Nat) : ((gf2StepLsb 0)^[k] r).toNat = r.toNat / 2 ^ k := by
  induction k with
  | zero => rw [pow_zero, Nat.div_one, Function.iterate_zero_apply]
  | succ k ih => rw [Function.iterate_succ_apply', gf2StepLsb_zero_toNat, ih, Nat.div_div_eq_div_mul, ← pow_succ]

/-- With the zero polynomial the eight steps push the byte out at the top (R87). -/
theorem gf2Reduce8Msb_zero {w : Nat} (h8 : 8 ≤ w) (hw : w ≤ 64) (k : Byte) : gf2Reduce8Msb k 0 w = 0 := by
  obtain ⟨hplaced, hlt⟩ := placedByte_toNat h8 hw k
  refine BitVec.eq_of_toNat_eq ?_
  rw [gf2Reduce8Msb, iterate_gf2StepMsb_zero_toNat hw hlt, hplaced, mul_assoc, ← pow_add,
    Nat.sub_add_cancel h8, Nat.mul_mod_left]
  rfl

/-- With the zero polynomial the eight steps push the byte out at the bottom (R87). -/
theorem gf2Reduce8Lsb_zero (k : Byte) : gf2Reduce8Lsb k 0 = 0 := by
  refine BitVec.eq_of_toNat_eq ?_
  rw [gf2Reduce8Lsb, iterate_gf2StepLsb_zero_toNat, byteWord_toNat, Nat.div_eq_of_lt k.isLt]
  rfl

/-- Settles O18: the steps are linear, hence their iterates, and a step with the zero polynomial is a shift. -/
theorem unitsAreLinear : Obligations.UnitsAreLinear := by
  intro w p a b k l ⟨h8, hw, _⟩
  have hmsb := gf2StepMsb_linear hw p
  have hlsb := gf2StepLsb_linear p
  exact ⟨hmsb a b, map_zero_of_linear hmsb, hlsb a b, map_zero_of_linear hlsb, gf2Reduce8Msb_xor hw p k l,
    gf2Reduce8Lsb_xor p k l, gf2Reduce8Msb_zero h8 hw k, gf2Reduce8Lsb_zero k⟩

/-! ## The mirror law -/

/-- Reflection turns a step, most significant bit first, into a step, least significant bit first, with the reflected
polynomial (R88). -/
theorem reflect_gf2StepMsb {w : Nat} (hw : w ≤ 64) (p : Word) :
    Function.Semiconj (reflect · w) (gf2StepMsb p w) (gf2StepLsb (reflect p w)) := by
  intro r
  refine BitVec.eq_of_getLsbD_eq fun j _ => ?_
  simp only [reflect_getLsbD _ hw, gf2StepMsb_getLsbD hw, gf2StepLsb_getLsbD]
  by_cases hj : j < w
  · have hmirror : w - 1 - (j + 1) = w - 1 - j - 1 := by omega
    have hinner : 0 < w - 1 - j ↔ j + 1 < w := by omega
    have hw0 : 0 < w := by omega
    have hlt : w - 1 - j < w := by omega
    simp only [hmirror, hinner, hj, hw0, hlt, decide_true, Bool.true_and, Bool.and_true, Nat.sub_zero]
  · have hnext : ¬ j + 1 < w := by omega
    simp [hj, hnext]

/-- The top byte of a w-bit register mirrors the low byte (R84, R85). -/
theorem reflect_placedByte {w : Nat} (h8 : 8 ≤ w) (hw : w ≤ 64) (b : Byte) :
    reflect (byteWord ((reflect (byteWord b) 8).setWidth 8) <<< (w - 8)) w = byteWord b := by
  refine BitVec.eq_of_getLsbD_eq fun j _ => ?_
  rw [reflect_getLsbD _ hw, placedByte_getLsbD hw, BitVec.getLsbD_setWidth, reflect_getLsbD _ (by decide),
    byteWord_getLsbD, byteWord_getLsbD]
  by_cases hj : j < 8
  · have hin : j < w ∧ w - 8 ≤ w - 1 - j := by omega
    have hplace : w - 1 - j - (w - 8) = 7 - j := by omega
    have hback : 7 - (7 - j) = j := by omega
    have hlow : 7 - j < 8 := by omega
    simp [hin, hplace, hback, hlow]
  · have hout : ¬ (j < w ∧ w - 8 ≤ w - 1 - j) := by omega
    rw [← Bool.and_assoc, ← Bool.decide_and, decide_eq_false hout, Bool.false_and, BitVec.getLsbD_of_ge b j (by omega)]

/-- Settles O19: reflection carries the eight steps over one by one, and the placed byte mirrors to the byte. -/
theorem reflectedTableIsMirrorImage : Obligations.ReflectedTableIsMirrorImage := by
  intro w p b ⟨h8, hw, _⟩ _
  have hsteps := (reflect_gf2StepMsb hw p).iterate_right 8
  rw [gf2Reduce8Msb, hsteps.eq, reflect_placedByte h8 hw, gf2Reduce8Lsb]

/-! ## The polynomial meaning -/

/-- A w-bit value is a polynomial of degree below w (R86). -/
theorem degree_lt_of_isPoly {v : Word} {f : (ZMod 2)[X]} {w : Nat} (h : IsPoly v f) (hv : v.toNat < 2 ^ w) :
    f.degree < w :=
  (degree_lt_iff_coeff_zero f w).2 fun i hi => by rw [h i, (toNat_lt_two_pow_iff v w).1 hv i hi]; rfl

/-- XOR of two bits is their difference in GF(2). -/
theorem ite_xor_eq_sub : ∀ a b : Bool,
    (if (a ^^ b) then 1 else 0 : ZMod 2) = (if a then 1 else 0) - (if b then 1 else 0) := by decide

/-- The byte in the top byte of a w-bit register is b(x)·x^(w-8) (R84, R86). -/
theorem placedByte_isPoly {w : Nat} (hw : w ≤ 64) {b : Byte} {β : (ZMod 2)[X]} (h : IsPoly (byteWord b) β) :
    IsPoly (byteWord b <<< (w - 8)) (β * X ^ (w - 8)) := by
  intro j
  rw [coeff_mul_X_pow', placedByte_getLsbD hw, h, byteWord_getLsbD]
  simp [ite_and]

section

variable {w : Nat} {p : Word} {g : (ZMod 2)[X]} (hp : p.toNat < 2 ^ w) (hg : IsPoly p g)
include hp hg

/-- The generator G(x) = x^w + p(x) is monic of degree w (R86). -/
theorem generator_monic_degree : (X ^ w + g).Monic ∧ (X ^ w + g).degree = (w : WithBot ℕ) := by
  have hdeg := degree_lt_of_isPoly hg hp
  refine ⟨monic_X_pow_add hdeg, ?_⟩
  rw [degree_add_eq_left_of_degree_lt (by rwa [degree_X_pow]), degree_X_pow]

variable (h1 : 1 ≤ w) (hw : w ≤ 64)
include h1 hw

/-- One step of the division: x·r(x), less G(x) when the top bit was set (R82, R86). -/
theorem gf2StepMsb_isPoly_sub {r : Word} {f : (ZMod 2)[X]} (hr : r.toNat < 2 ^ w) (hf : IsPoly r f) :
    IsPoly (gf2StepMsb p w r) (X * f - (X ^ w + g) * C (f.coeff (w - 1))) := by
  intro j
  rw [gf2StepMsb_getLsbD hw, ite_xor_eq_sub, coeff_sub, coeff_mul_C, coeff_add, coeff_X_pow, hg, hf]
  have hpj : w ≤ j → p.getLsbD j = false := (toNat_lt_two_pow_iff p w).1 hp j
  cases j with
  | zero =>
    have hw0 : 0 ≠ w := by omega
    rw [coeff_X_mul_zero]
    simp [hw0, ← ite_and]
  | succ j =>
    rw [coeff_X_mul, hf]
    obtain hlt | rfl | hgt := Nat.lt_trichotomy (j + 1) w
    · simp [hlt, hlt.ne, ← ite_and, and_comm]
    · simp [hpj le_rfl]
    · simp [hpj hgt.le, hgt.ne', hgt.le.not_gt, (toNat_lt_two_pow_iff r w).1 hr j (by omega)]

/-- One step of a w-bit register is x·r(x) mod G(x): a multiple of G has been subtracted, and the degree fits (R86). -/
theorem gf2StepMsb_isPoly {r : Word} {f : (ZMod 2)[X]} (hr : r.toNat < 2 ^ w) (hf : IsPoly r f) :
    IsPoly (gf2StepMsb p w r) ((X * f) %ₘ (X ^ w + g)) := by
  obtain ⟨hmonic, hdeg⟩ := generator_monic_degree hp hg
  have hstep := gf2StepMsb_isPoly_sub hp hg h1 hw hr hf
  have hlt := degree_lt_of_isPoly hstep (gf2StepMsb_lt hp r)
  rwa [(div_modByMonic_unique _ _ hmonic ⟨sub_add_cancel _ _, hdeg.symm ▸ hlt⟩).2]

/-- k steps of a w-bit register are x^k·r(x) mod G(x) (R86). -/
theorem iterate_gf2StepMsb_isPoly {r : Word} {f : (ZMod 2)[X]} (hr : r.toNat < 2 ^ w) (hf : IsPoly r f) (k : Nat) :
    IsPoly ((gf2StepMsb p w)^[k] r) ((X ^ k * f) %ₘ (X ^ w + g)) := by
  obtain ⟨hmonic, hdeg⟩ := generator_monic_degree hp hg
  induction k generalizing r f with
  | zero =>
    rw [pow_zero, one_mul, (modByMonic_eq_self_iff hmonic).2 (hdeg.symm ▸ degree_lt_of_isPoly hf hr)]
    exact hf
  | succ k ih =>
    have hdvd : X ^ w + g ∣ X ^ (k + 1) * f - X ^ k * ((X * f) %ₘ (X ^ w + g)) := by
      rw [pow_succ, mul_assoc, ← mul_sub]
      exact (dvd_sub_comm.1 (dvd_modByMonic_sub (X * f) (X ^ w + g))).mul_left _
    rw [modByMonic_eq_of_dvd_sub hmonic hdvd]
    exact ih (gf2StepMsb_lt hp r) (gf2StepMsb_isPoly hp hg h1 hw hr hf)

end

/-- Settles O20: the eight steps multiply the placed byte b(x)·x^(w-8) by x^8 modulo G(x). -/
theorem tableEntryIsPolynomialRemainder : Obligations.TableEntryIsPolynomialRemainder := by
  intro w p r b g f β ⟨h8, hw, _⟩ hp hr hg hf hβ
  obtain ⟨-, hlt⟩ := placedByte_toNat h8 hw b
  have h1 : 1 ≤ w := by omega
  have hproduct : X ^ 8 * (β * X ^ (w - 8)) = β * X ^ w := by
    rw [mul_left_comm, ← pow_add, Nat.add_sub_cancel' h8]
  refine ⟨gf2StepMsb_isPoly hp hg h1 hw hr hf, ?_⟩
  rw [← hproduct]
  exact iterate_gf2StepMsb_isPoly hp hg h1 hw hlt (placedByte_isPoly hw hβ) 8

end Sys2Proof.Machine
end

section
/-!
PROOFS of the family `42_table_generator.md`: the entries of a built table, what BUILD commits and discards, its
repetition, and RDTBL.
-/
namespace Sys2Proof.Machine

open Sys2Proof.Spec

/-! ## The entries of POLY and RPOLY: seven plain shifts, then the polynomial -/

/-- A step of a register whose top bit is clear, most significant bit first, is a plain shift (R82). -/
theorem gf2StepMsb_toNat_of_lt {w : Nat} (hw : w ≤ 64) (p : Word) {r : Word} (hr : r.toNat * 2 < 2 ^ w) :
    (gf2StepMsb p w r).toNat = r.toNat * 2 := by
  have hclear : r.toNat.testBit (w - 1) = false := Nat.testBit_lt_two_pow (by
    cases w with
    | zero => simpa using hr
    | succ w => rw [pow_succ] at hr; simpa using hr)
  rw [gf2StepMsb_toNat hw, hclear, if_neg Bool.false_ne_true, Nat.mod_eq_of_lt hr]

/-- k steps are plain shifts while no bit reaches the top (R82). -/
theorem iterate_gf2StepMsb_toNat_of_lt {w : Nat} (hw : w ≤ 64) (p : Word) {r : Word} (k : Nat)
    (hr : r.toNat * 2 ^ k < 2 ^ w) : ((gf2StepMsb p w)^[k] r).toNat = r.toNat * 2 ^ k := by
  induction k with
  | zero => simp
  | succ k ih =>
    rw [pow_succ, ← mul_assoc] at hr ⊢
    have hk := ih (by omega)
    rw [Function.iterate_succ_apply', gf2StepMsb_toNat_of_lt hw p (hk ▸ hr), hk]

/-- A step of a register that holds the top bit alone, most significant bit first, leaves the polynomial (R82). -/
theorem gf2StepMsb_of_topBit {w : Nat} (h1 : 1 ≤ w) (hw : w ≤ 64) (p : Word) {r : Word}
    (hr : r.toNat = 2 ^ (w - 1)) : gf2StepMsb p w r = p := by
  have hout : 2 ^ (w - 1) * 2 % 2 ^ w = 0 := by rw [← pow_succ, Nat.sub_add_cancel h1, Nat.mod_self]
  refine BitVec.eq_of_toNat_eq ?_
  rw [gf2StepMsb_toNat hw, hr, Nat.testBit_two_pow_self, if_pos rfl, hout, Nat.zero_xor]

/-- Entry 1, most significant bit first, is the polynomial (R91). -/
theorem gf2Reduce8Msb_one {w : Nat} (h8 : 8 ≤ w) (hw : w ≤ 64) (p : Word) : gf2Reduce8Msb 1 p w = p := by
  obtain ⟨hplaced, -⟩ := placedByte_toNat h8 hw 1
  have htop : (byteWord 1 <<< (w - 8)).toNat * 2 ^ 7 = 2 ^ (w - 1) := by
    rw [hplaced, show (1 : Byte).toNat = 1 from rfl, one_mul, ← pow_add]; congr 1; omega
  have hlt : 2 ^ (w - 1) < 2 ^ w := Nat.pow_lt_pow_right (by decide) (by omega)
  have hseven := iterate_gf2StepMsb_toNat_of_lt hw p 7 (htop ▸ hlt)
  rw [gf2Reduce8Msb, Function.iterate_succ_apply', gf2StepMsb_of_topBit (by omega) hw p (hseven.trans htop)]

/-- A step of a register whose low bit is clear, least significant bit first, is a plain shift (R83). -/
theorem gf2StepLsb_toNat_of_even (q : Word) {r : Word} (hr : 2 ∣ r.toNat) : (gf2StepLsb q r).toNat = r.toNat / 2 := by
  have hclear : r.toNat.testBit 0 = false := by rw [Nat.testBit_zero, decide_eq_false (by omega)]
  rw [gf2StepLsb_toNat, hclear, if_neg Bool.false_ne_true]

/-- k steps are plain shifts while no bit has reached the low end (R83). -/
theorem iterate_gf2StepLsb_toNat_of_dvd (q : Word) {r : Word} {k : Nat} (hr : 2 ^ k ∣ r.toNat) :
    ((gf2StepLsb q)^[k] r).toNat = r.toNat / 2 ^ k := by
  induction k with
  | zero => simp
  | succ k ih =>
    have hk := ih ((pow_dvd_pow 2 k.le_succ).trans hr)
    have heven : 2 ∣ r.toNat / 2 ^ k := Nat.dvd_div_of_mul_dvd (pow_succ 2 k ▸ hr)
    rw [Function.iterate_succ_apply', gf2StepLsb_toNat_of_even q (hk ▸ heven), hk, Nat.div_div_eq_div_mul, ← pow_succ]

/-- A step of a register that holds the low bit alone, least significant bit first, leaves the polynomial (R83). -/
theorem gf2StepLsb_one (q : Word) : gf2StepLsb q 1 = q := BitVec.zero_xor

/-- Entry 0x80, least significant bit first, is the polynomial (R91). -/
theorem gf2Reduce8Lsb_topBit (q : Word) : gf2Reduce8Lsb 0x80 q = q := by
  have hseven : (gf2StepLsb q)^[7] (byteWord 0x80) = 1 :=
    BitVec.eq_of_toNat_eq (iterate_gf2StepLsb_toNat_of_dvd q (k := 7) (by decide))
  rw [gf2Reduce8Lsb, Function.iterate_succ_apply', hseven, gf2StepLsb_one]

/-! ## The entries of a built table -/

/-- Entries add as their indices do, the unit being linear (R87, R91). -/
theorem tblentry_xor {s : State} (hw : s.width.toNat ≤ 64) (a b : Byte) :
    tblentry s (a ^^^ b) = tblentry s a ^^^ tblentry s b := by
  unfold tblentry
  split
  · exact gf2Reduce8Lsb_xor s.rpoly a b
  · exact gf2Reduce8Msb_xor hw s.poly a b

/-- Entry 0 is 0 (R91). -/
theorem tblentry_zero {s : State} (hw : s.width.toNat ≤ 64) : tblentry s 0 = 0 := by
  have h := tblentry_xor hw 0 0
  rwa [BitVec.xor_self, BitVec.xor_self] at h

/-- Entry 0 of a built table reads 0 (R91, R97). -/
theorem SpecInv.memRead_zero {s : State} (h : SpecInv s) : memRead s.table 0 = 0 :=
  (h.table_eq 0).trans (tblentry_zero h.width_admitted.2.1)

/-- Settles O22: a built table holds `tblentry`, which is linear in the index, and gives the polynomial at the index
whose bit reaches the deciding end at the eighth step. -/
theorem builtTableEntries : Obligations.BuiltTableEntries := by
  intro s a b h
  obtain ⟨h8, hw, -⟩ := h.width_admitted
  refine ⟨h.memRead_zero, ?_, fun hrefl => ?_, fun hrefl => ?_⟩
  · rw [h.table_eq, h.table_eq, h.table_eq, tblentry_xor hw]
  · rw [h.table_eq, tblentry, hrefl]; exact gf2Reduce8Msb_one h8 hw s.poly
  · rw [h.table_eq, tblentry, hrefl]; exact gf2Reduce8Lsb_topBit s.rpoly

/-- Settles O23: RDTBL needs the active spec and no accumulator, so VALID alone decides between the entry and
NotConfigured; what the entry is, the spec invariants say. -/
theorem rdtblReadsOneEntry : Obligations.RdtblReadsOneEntry := by
  intro idx s
  refine ⟨encode_rdtbl_toNat idx, fun hinv hv => ?_, exec_of_valid rfl rfl rfl,
    (admissionChecked_of_needsSpec rfl s).1⟩
  have hs : SpecInv s := hinv.spec hv
  exact ⟨hs.table_eq idx, hs.table_lt idx, hs.memRead_zero⟩

/-! ## BUILD -/

/-- BUILD with an admitted staged width commits and completes (R90, R93). -/
theorem exec_build {s : State} (ha : Admitted s.sWidth.toNat) (r : Bool) :
    exec (.build r) s = .next ((writes s (.build r)).respond 0 []) :=
  exec_pass (tests_pass_iff.2 ⟨fun _ _ => ha, fun h => (nomatch h)⟩)

/-- BUILD with any other staged width is squashed (R92). -/
theorem exec_build_of_not_admitted {s : State} (ha : ¬ Admitted s.sWidth.toNat) (r : Bool) :
    exec (.build r) s = .next (s.takeFault .invalidSpecification) :=
  exec_fail (by simp [tests, checkWidth, validWidth_iff, ha])

/-- The only state a BUILD with a valid staged width can answer. -/
theorem eq_of_exec_build {r : Bool} {s t : State} (hw : validWidth s.sWidth = true) (h : exec (.build r) s = .next t) :
    t = (writes s (.build r)).respond 0 [] := by
  rw [exec_build (validWidth_iff.1 hw)] at h
  injection h with h
  exact h.symm

/-- Settles O21: the registers of the next state are those of `commitSpec`, and its table is the fill. -/
theorem buildCommitsSpecAndFillsTable : Obligations.BuildCommitsSpecAndFillsTable := by
  intro r s hm
  refine ⟨encode_build_toNat r, fun hbad => ?_, fun hgood => ?_⟩
  · exact exec_build_of_not_admitted (fun ha => hbad (admitted_iff_mem.1 ha)) r
  · have ha : Admitted s.sWidth.toNat := admitted_iff_mem.2 hgood
    exact ⟨(commitSpec r s).width, (commitSpec r s).poly, (commitSpec r s).init, (commitSpec r s).xorout,
      (commitSpec r s).rpoly, memFill s.table (tblentry (commitSpec r s)), exec_build ha r,
      commitSpec_width_toNat ha r, norm_toNat _ _, norm_toNat _ _, norm_toNat _ _, reflect_getLsbD _ ha.2.1,
      memFill_wf hm _, memRead_memFill hm _⟩

/-- A second fill with the same entries rewrites the same table: its form is canonical. -/
theorem memFill_memFill {m : List Cell} (h : Memory.wf m) (entry : Byte → Word) :
    memFill (memFill m entry) entry = memFill m entry := by
  have hfill := memFill_wf h entry
  exact Memory.ext_memRead (memFill_wf hfill entry) hfill fun k => by
    rw [memRead_memFill hfill, memRead_memFill h]

/-- BUILD's writes after BUILD's writes change nothing: the staging registers have stayed, so the same spec is committed
and the same table filled (R90). -/
theorem writes_build_of_built {s : State} (h : Memory.wf s.table) (r : Bool) (v : Word) (bs : List Byte) :
    writes ((writes s (.build r)).respond v bs) (.build r) = (writes s (.build r)).respond v bs :=
  congrArg (fun tbl => { (writes s (.build r)).respond v bs with table := tbl })
    (memFill_memFill h (tblentry (commitSpec r s)))

/-- Settles O25: the staged width is still admitted, and the writes change nothing. -/
theorem rebuildChangesNothing : Obligations.RebuildChangesNothing := by
  intro r s t hm hw h
  obtain rfl := eq_of_exec_build hw h
  have hw' : Admitted ((writes s (.build r)).respond 0 []).sWidth.toNat := validWidth_iff.1 hw
  rw [exec_build hw', writes_build_of_built hm]
  rfl

/-- Settles O26: after BUILD the configuration is valid and no accumulator is live, so each of the commands passes its
checks of VALID and of its indices and fails the one of the accumulator it reads. -/
theorem buildDiscardsAccumulators : Obligations.BuildDiscardsAccumulators := by
  intro r s t a d b n hw h ha hd i hi
  obtain rfl := eq_of_exec_build hw h
  have hcommand : needsSpec i = true ∧ (∀ j ∈ usedIndices i, j = a ∨ j = d) ∧ a ∈ readIndices i := by
    revert i
    simp [needsSpec, usedIndices, readIndices]
  obtain ⟨hneeds, hused, hread⟩ := hcommand
  have hexist : ∀ j ∈ usedIndices i, j.val < s.cfg.nacc := fun j hj => by
    obtain rfl | rfl := hused j hj
    · exact ha
    · exact hd
  have hdead : (writes s (.build r)).isAlive a = false := Bool.eq_false_iff.2 (by simp [isAlive_writes_iff])
  obtain ⟨-, -, hraise⟩ := admissionChecked_of_needsSpec hneeds ((writes s (.build r)).respond 0 [])
  exact hraise rfl hexist ⟨a, hread, hdead⟩

end Sys2Proof.Machine
end

section
/-!
PROOFS of the family `43_incremental_engine.md`: what each command of the engine does to a live accumulator, what a
command can write, the digest and its characters, the table-driven update as division, and streaming.
-/
namespace Sys2Proof.Machine

open Sys2Proof.Spec

/-! ## What a command can write -/

/-- A command leaves every register but its destination (R112). -/
theorem getX_writes {i : Instr} {j : Fin 16} (h : destination i ≠ some j) (s : State) :
    (writes s i).getX j = s.getX j := by
  cases i with
  | new rd | copy rd rs | updb rd b | updw rd n => exact State.getX_setX_ne s _ fun e => h (congrArg some e)
  | _ => rfl

/-- A command other than BUILD leaves every ALIVE bit but that of its destination (R22, R112). -/
theorem isAlive_writes {i : Instr} {j : Fin 16} (h : destination i ≠ some j) (hb : ∀ r, i ≠ .build r)
    (s : State) : (writes s i).isAlive j = s.isAlive j := by
  have hnew : i ≠ .new j := by rintro rfl; exact h rfl
  have hcopy : ∀ rs, i ≠ .copy j rs := by rintro rs rfl; exact h rfl
  refine Bool.eq_iff_iff.2 (isAlive_writes_iff.trans ?_)
  simp [hb, hnew, hcopy]

/-- Settles O38: a fault touches no accumulator, and the writes of a command touch its destination alone. -/
theorem commandWritesOnlyItsAccumulator : Obligations.CommandWritesOnlyItsAccumulator := by
  intro i s t j h hdest
  obtain ⟨c, -, rfl⟩ | ⟨-, rfl⟩ := exec_cases h
  · exact ⟨rfl, fun _ => rfl⟩
  · exact ⟨getX_writes hdest s, fun hb => isAlive_writes hdest hb s⟩

/-- A read writes nothing (R39, R115). -/
theorem writes_of_readsOnly {i : Instr} (h : readsOnly i = true) (s : State) : writes s i = s := by
  cases i with
  | wrspecWidth | wrspecPoly | wrspecInit | wrspecXorout | build r | new rd | copy rd rs | updb rd b | updw rd n =>
    cases h
  | _ => rfl

/-- Settles O39: a read takes a fault, which has a status of its own, or answers alone. -/
theorem readsDoNotMutate : Obligations.ReadsDoNotMutate := by
  intro i s t hread h
  obtain ⟨c, -, rfl⟩ | ⟨-, rfl⟩ := exec_cases h
  · exact ⟨rfl, _, rfl, fun hstatus => absurd hstatus c.code_ne_zero⟩
  · rw [writes_of_readsOnly hread]
    exact ⟨rfl, _, rfl, fun _ => rfl⟩

/-! ## The commands that make an accumulator live -/

/-- NEW of an existing accumulator: INIT is loaded (R101). -/
theorem exec_new {s : State} {rd : Fin 16} (hv : s.valid = true) (hidx : rd.val < s.cfg.nacc) :
    exec (.new rd) s = .next (((s.setX rd s.init).setAlive rd).respond 0 []) :=
  exec_of_ready rfl hv ⟨by simpa [usedIndices] using hidx, by simp [readIndices]⟩

/-- Settles O27: NEW reads no accumulator, so only VALID and its index decide whether INIT is loaded. -/
theorem newLoadsInit : Obligations.NewLoadsInit := fun rd s =>
  ⟨encode_new_toNat rd, admissionChecked_of_needsSpec rfl s, exec_new⟩

/-- COPY of a live accumulator to an existing one (R102). -/
theorem exec_copy {s : State} {rd rs : Fin 16} (hv : s.valid = true) (hrd : rd.val < s.cfg.nacc)
    (hrs : rs.val < s.cfg.nacc) (hlive : s.isAlive rs = true) :
    exec (.copy rd rs) s = .next (((s.setX rd (s.getX rs)).setAlive rd).respond 0 []) :=
  exec_of_ready rfl hv ⟨by simp [usedIndices, hrd, hrs], by simpa [readIndices] using hlive⟩

/-- Making a live accumulator live changes nothing. -/
theorem State.setAlive_of_isAlive {s : State} {i : Fin 16} (h : s.isAlive i = true) : s.setAlive i = s := by
  have hset : s.alive.set i.val true i.isLt = s.alive := by
    rw [← h]; exact Vector.set_getElem_self i.isLt
  rw [State.setAlive, hset]

/-- Settles O28: COPY loads x[rs]; with rd = rs both writes put back what is there. -/
theorem copyDuplicatesAccumulator : Obligations.CopyDuplicatesAccumulator := by
  intro rd rs s
  refine ⟨encode_copy_toNat rd rs, admissionChecked_of_needsSpec rfl s, fun hv hrd hrs hlive =>
    ⟨exec_copy hv hrd hrs hlive, ?_⟩⟩
  rintro rfl
  rw [exec_copy hv hrd hrs hlive, State.setX_getX, State.setAlive_of_isAlive hlive]
  rfl

/-! ## The update by one byte -/

/-- UPDB on a live accumulator: the updated value is written to it (R103). -/
theorem exec_updb {s : State} {rd : Fin 16} (hv : s.valid = true) (hidx : rd.val < s.cfg.nacc)
    (hlive : s.isAlive rd = true) (b : Byte) :
    exec (.updb rd b) s = .next ((s.setX rd (upd1 s (s.getX rd) b)).respond 0 []) :=
  exec_of_live rfl rfl rfl hv hidx hlive

/-- Settles O29: on a live accumulator UPDB writes `upd1` of it, whose value on naturals is `updNat`. -/
theorem updbProcessesOneByte : Obligations.UpdbProcessesOneByte := fun rd b s =>
  ⟨encode_updb_toNat rd b, admissionChecked_of_needsSpec rfl s, fun hv hidx hlive =>
    ⟨upd1 s (s.getX rd) b, exec_updb hv hidx hlive b, fun hw => upd1_toNat hw.2.1 _ b⟩⟩

/-! ## The value, the digest and its characters -/

/-- CRCVAL of a live accumulator: its register XOR XOROUT is answered (R105, R106). -/
theorem exec_crcval {s : State} {rs : Fin 16} (hv : s.valid = true) (hidx : rs.val < s.cfg.nacc)
    (hlive : s.isAlive rs = true) : exec (.crcval rs) s = .next (s.respond (outval s rs) []) :=
  exec_of_live rfl rfl rfl hv hidx hlive

/-- The value of a live accumulator fits the width: its register and XOROUT do (R105). -/
theorem State.Inv.outval_lt {s : State} (h : s.Inv) {rs : Fin 16} (hlive : s.isAlive rs = true) :
    (outval s rs).toNat < 2 ^ s.width.toNat :=
  xor_lt (h.x_lt rs hlive) (h.spec (h.alive_valid rs hlive)).xorout_lt

/-- Settles O31: CRCVAL answers `outval`, which fits the width. -/
theorem crcvalAppliesXoroutAtRead : Obligations.CrcvalAppliesXoroutAtRead := fun rs s =>
  ⟨encode_crcval_toNat rs, admissionChecked_of_needsSpec rfl s, exec_crcval, fun h hlive => h.outval_lt hlive⟩

/-- Put together most significant first, the first n digest bytes of a value that fits are its part above the bytes
still to come (R35). -/
theorem foldl_digestBytes_take {v w : Nat} (hv : v < 2 ^ w) {n : Nat} (hn : 8 * n ≤ w) :
    (List.range n).foldl (fun acc k => acc * 256 + v / 2 ^ (w - 8 * (k + 1)) % 256) 0 = v / 2 ^ (w - 8 * n) := by
  induction n with
  | zero => exact (Nat.div_eq_of_lt hv).symm
  | succ n ih =>
    have hnext : w - 8 * n = w - 8 * (n + 1) + 8 := by omega
    rw [List.range_succ, List.foldl_concat, ih (by omega), hnext, pow_add, ← Nat.div_div_eq_div_mul]
    exact Nat.div_add_mod' _ 256

/-- Put together most significant first, the digest bytes of a value that fits the width are the value (R35, W3). -/
theorem foldl_digestBytes {v : Word} {w : Nat} (hv : v.toNat < 2 ^ w) (hw : w % 8 = 0) :
    (digestBytes v w).foldl (fun acc b => acc * 256 + b.toNat) 0 = v.toNat := by
  have hall : 8 * (w / 8) = w := by omega
  have hfold := foldl_digestBytes_take hv hall.le
  rw [hall, Nat.sub_self, pow_zero, Nat.div_one] at hfold
  simpa only [digestBytes, List.foldl_map, lowByteOf_ushiftRight_toNat] using hfold

/-- Settles O33: both commands complete on a live accumulator, CRCVAL with `outval` and DIGEST with its bytes. -/
theorem digestPacksTheCrcValue : Obligations.DigestPacksTheCrcValue := by
  intro rs s h hlive
  have hv := h.alive_valid rs hlive
  have hidx := h.alive_exists rs hlive
  exact ⟨_, _, exec_crcval hv hidx hlive, exec_digest hv hidx hlive,
    foldl_digestBytes (h.outval_lt hlive) (h.spec hv).width_admitted.2.2⟩

/-- HEXDIG of a live accumulator: the characters of the digest bytes are answered (R108). -/
theorem exec_hexdig {s : State} {rs : Fin 16} (hv : s.valid = true) (hidx : rs.val < s.cfg.nacc)
    (hlive : s.isAlive rs = true) :
    exec (.hexdig rs) s = .next (s.respond 0 (hexBytes (digestBytes (outval s rs) s.width.toNat))) :=
  exec_of_live rfl rfl rfl hv hidx hlive

/-- The character of a hexadecimal digit, on naturals (R108). -/
theorem hexch_toNat : ∀ t : Nibble, (hexch t).toNat = hexchNat t.toNat := by decide

/-- The characters of a list of bytes, on naturals: high digit first (R108). -/
theorem hexBytes_map_toNat (ds : List Byte) : (hexBytes ds).map BitVec.toNat =
    ds.flatMap fun d => [hexchNat (d.toNat / 16), hexchNat (d.toNat % 16)] := by
  rw [hexBytes, List.map_flatMap]
  congr 1
  funext d
  have hhigh : (d.extractLsb' 4 4).toNat = d.toNat / 16 := by
    rw [BitVec.extractLsb'_toNat, Nat.shiftRight_eq_div_pow]; omega
  have hlow : (d.extractLsb' 0 4).toNat = d.toNat % 16 := BitVec.extractLsb'_toNat ..
  simp [hexch_toNat, hhigh, hlow]

/-- Settles O34: HEXDIG answers the characters of the bytes DIGEST answers. -/
theorem hexdigIsUppercaseDigest : Obligations.HexdigIsUppercaseDigest := fun rs s =>
  ⟨encode_hexdig_toNat rs, admissionChecked_of_needsSpec rfl s, fun hv hidx hlive =>
    ⟨_, _, exec_digest hv hidx hlive, exec_hexdig hv hidx hlive, hexBytes_map_toNat _⟩⟩

/-! ## The table-driven update is eight steps of the division -/

/-- The update and the table entry of each convention (R91, R100). -/
theorem upd1_of_refl {s : State} (h : s.refl = true) (reg : Word) (b : Byte) :
    upd1 s reg b = memRead s.table (lowByteOf (reg ^^^ byteWord b)) ^^^ (reg >>> 8) := if_pos h

theorem upd1_of_not_refl {s : State} (h : s.refl = false) (reg : Word) (b : Byte) :
    upd1 s reg b = memRead s.table (lowByteOf ((reg >>> (s.width.toNat - 8)) ^^^ byteWord b))
      ^^^ ((reg <<< 8) &&& mask s.width.toNat) := if_neg (Bool.eq_false_iff.1 h)

theorem tblentry_of_refl {s : State} (h : s.refl = true) (k : Byte) : tblentry s k = gf2Reduce8Lsb k s.rpoly :=
  if_pos h

theorem tblentry_of_not_refl {s : State} (h : s.refl = false) (k : Byte) :
    tblentry s k = gf2Reduce8Msb k s.poly s.width.toNat := if_neg (Bool.eq_false_iff.1 h)

/-- The table index depends linearly on the message byte (R100). -/
theorem lowByteOf_xor_byteWord (v : Word) (b : Byte) : lowByteOf (v ^^^ byteWord b) = lowByteOf v ^^^ b := by
  rw [lowByteOf, BitVec.setWidth_xor, byteWord, BitVec.setWidth_setWidth_of_le _ (by decide), BitVec.setWidth_eq]
  rfl

/-- A register is its low byte and the rest (R114). -/
theorem eq_lowByte_xor_rest (v : Word) : v = byteWord (lowByteOf v) ^^^ ((v >>> 8) <<< 8) := by
  refine BitVec.eq_of_getLsbD_eq fun j hj => ?_
  rw [BitVec.getLsbD_xor, byteWord_getLsbD, lowByteOf, BitVec.getLsbD_setWidth, BitVec.getLsbD_shiftLeft,
    BitVec.getLsbD_ushiftRight]
  by_cases h : j < 8
  · simp [h]
  · simp [h, hj, Nat.add_sub_cancel' (Nat.le_of_not_lt h)]

/-- Eight steps, least significant bit first: the rest of the register is shifted plainly, and the low byte gives its
table entry (R114). -/
theorem iterate_gf2StepLsb_eight (q v : Word) :
    (gf2StepLsb q)^[8] v = gf2Reduce8Lsb (lowByteOf v) q ^^^ (v >>> 8) := by
  have hrest : (gf2StepLsb q)^[8] ((v >>> 8) <<< 8) = v >>> 8 := by
    have hsmall : (v >>> 8).toNat * 2 ^ 8 < 2 ^ 64 := by
      rw [BitVec.toNat_ushiftRight, Nat.shiftRight_eq_div_pow]; omega
    have hnat : ((v >>> 8) <<< 8).toNat = (v >>> 8).toNat * 2 ^ 8 := by
      rw [BitVec.toNat_shiftLeft, Nat.shiftLeft_eq, Nat.mod_eq_of_lt hsmall]
    refine BitVec.eq_of_toNat_eq ?_
    rw [iterate_gf2StepLsb_toNat_of_dvd q (hnat ▸ Nat.dvd_mul_left _ _), hnat, Nat.mul_div_cancel _ (by decide)]
  conv_lhs => rw [eq_lowByte_xor_rest v]
  rw [(gf2StepLsb_linear q).iterate 8, hrest, gf2Reduce8Lsb]

/-- A w-bit register is its top byte, in its place, and the rest (R114). -/
theorem eq_topByte_xor_rest {v : Word} {w : Nat} (hw : w ≤ 64) (hv : v.toNat < 2 ^ w) :
    v = (byteWord (lowByteOf (v >>> (w - 8))) <<< (w - 8)) ^^^ norm v (w - 8) := by
  refine BitVec.eq_of_getLsbD_eq fun j _ => ?_
  rw [BitVec.getLsbD_xor, placedByte_getLsbD hw, norm_getLsbD, lowByteOf, BitVec.getLsbD_setWidth,
    BitVec.getLsbD_ushiftRight]
  by_cases hlow : j < w - 8
  · simp [hlow, Nat.not_le_of_lt hlow]
  · by_cases hin : j < w
    · have hbyte : j - (w - 8) < 8 := by omega
      simp [hlow, hbyte, Nat.le_of_not_lt hlow]
    · simp [hlow, Nat.le_of_not_lt hlow, (toNat_lt_two_pow_iff v w).1 hv j (Nat.le_of_not_lt hin)]

/-- A shift to the left within w bits, on naturals (R9). -/
theorem shiftLeft_mask_toNat {w : Nat} (hw : w ≤ 64) (v : Word) (k : Nat) :
    ((v <<< k) &&& mask w).toNat = v.toNat * 2 ^ k % 2 ^ w := by
  rw [← norm, norm_toNat, BitVec.toNat_shiftLeft, Nat.shiftLeft_eq, Nat.mod_mod_of_dvd _ (pow_dvd_pow 2 hw)]

/-- Eight steps of a w-bit register, most significant bit first: the rest of the register is shifted plainly, and the
top byte gives its table entry (R114). -/
theorem iterate_gf2StepMsb_eight {w : Nat} (h8 : 8 ≤ w) (hw : w ≤ 64) (p : Word) {v : Word} (hv : v.toNat < 2 ^ w) :
    (gf2StepMsb p w)^[8] v = gf2Reduce8Msb (lowByteOf (v >>> (w - 8))) p w ^^^ ((v <<< 8) &&& mask w) := by
  have hrest : (gf2StepMsb p w)^[8] (norm v (w - 8)) = (v <<< 8) &&& mask w := by
    have hsplit : 2 ^ (w - 8) * 2 ^ 8 = 2 ^ w := by rw [← pow_add, Nat.sub_add_cancel h8]
    have hsmall : (norm v (w - 8)).toNat * 2 ^ 8 < 2 ^ w :=
      hsplit ▸ Nat.mul_lt_mul_of_pos_right (norm_lt v (w - 8)) (by decide)
    refine BitVec.eq_of_toNat_eq ?_
    rw [iterate_gf2StepMsb_toNat_of_lt hw p 8 hsmall, norm_toNat, shiftLeft_mask_toNat hw, ← hsplit,
      Nat.mul_mod_mul_right]
  conv_lhs => rw [eq_topByte_xor_rest hw hv]
  rw [(gf2StepMsb_linear hw p).iterate 8, hrest, gf2Reduce8Msb]

/-- Settles O35: the steps are linear, so those of the register with the byte XORed in are those of the register, which
are the entry of its selected byte and a shift, XOR the entry of the byte; and the two entries are the one at the XOR of
their indices. -/
theorem tableUpdateEqualsBitSerialDivision : Obligations.TableUpdateEqualsBitSerialDivision := by
  intro s reg b h hreg
  obtain ⟨h8, hw, -⟩ := h.width_admitted
  refine ⟨fun hrefl => ?_, fun hrefl => ?_⟩
  · have hsteps : (gf2StepMsb s.poly s.width.toNat)^[8] (reg ^^^ (byteWord b <<< (s.width.toNat - 8))) =
        (gf2StepMsb s.poly s.width.toNat)^[8] reg ^^^ gf2Reduce8Msb b s.poly s.width.toNat :=
      (gf2StepMsb_linear hw s.poly).iterate 8 _ _
    rw [hsteps, iterate_gf2StepMsb_eight h8 hw s.poly hreg, upd1_of_not_refl hrefl,
      lowByteOf_xor_byteWord, h.table_eq, tblentry_xor hw, tblentry_of_not_refl hrefl, tblentry_of_not_refl hrefl]
    ac_rfl
  · have hsteps : (gf2StepLsb s.rpoly)^[8] (reg ^^^ byteWord b) =
        (gf2StepLsb s.rpoly)^[8] reg ^^^ gf2Reduce8Lsb b s.rpoly := (gf2StepLsb_linear s.rpoly).iterate 8 _ _
    rw [hsteps, iterate_gf2StepLsb_eight, upd1_of_refl hrefl, lowByteOf_xor_byteWord, h.table_eq,
      tblentry_xor hw, tblentry_of_refl hrefl, tblentry_of_refl hrefl]
    ac_rfl

/-! ## A fresh accumulator -/

/-- NEW of an existing accumulator leaves it live and holding INIT, whatever it held (R101). -/
theorem exec_new_fresh {s : State} {d : Fin 16} (hv : s.valid = true) (hidx : d.val < s.cfg.nacc) :
    ∃ t, exec (.new d) s = .next t ∧ t.valid = true ∧ d.val < t.cfg.nacc ∧ t.isAlive d = true ∧
      t.getX d = s.init ∧ t.xorout = s.xorout :=
  ⟨_, exec_new hv hidx, hv, hidx, State.isAlive_setAlive_same (s.setX d s.init) d,
    State.getX_setX_same s d s.init, rfl⟩

/-- CRCVAL of a live accumulator that holds v, XOROUT being m (R106). -/
theorem exec_crcval_of_getX {s : State} {rs : Fin 16} {v m : Word} (hv : s.valid = true) (hidx : rs.val < s.cfg.nacc)
    (hlive : s.isAlive rs = true) (hx : s.getX rs = v) (hm : s.xorout = m) :
    exec (.crcval rs) s = .next (s.respond (v ^^^ m) []) := by
  rw [exec_crcval hv hidx hlive, outval, hx, hm]

/-- Settles O37: NEW puts INIT in a live register, and an update over no lanes leaves it there; CRCVAL XORs XOROUT to
what it finds. -/
theorem newThenReadGivesInitXorXorout : Obligations.NewThenReadGivesInitXorXorout := by
  intro d v s hv hidx
  obtain ⟨t, hnew, htv, htidx, htlive, htx, hto⟩ := exec_new_fresh hv hidx
  exact ⟨t, _, hnew, exec_crcval_of_getX htv htidx htlive htx hto,
    exec_updw (s := { t with wdata := v }) htv htidx htlive 0,
    exec_crcval_of_getX htv htidx htlive ((State.getX_setX_same _ d _).trans htx) hto⟩

end Sys2Proof.Machine

namespace Sys2Proof.Spec

/-! ## The commands of a stream -/

/-- The command a chunk presents (R103, R104). -/
def Chunk.command (d : Fin 16) : Chunk → Instr
  | .byte b _ => .updb d b
  | .lanes n _ => .updw d n

theorem Chunk.command_wf {c : Chunk} (h : c.fits) (d : Fin 16) : (c.command d).wf = true := by
  cases c with
  | byte b v => rfl
  | lanes n v => exact decide_eq_true (p := n ≤ 8) h

/-- What the host puts on the port for a chunk that fits is the word of its command (R53). -/
theorem Chunk.onPort_cmd {c : Chunk} (h : c.fits) (d : Fin 16) : (c.onPort d).cmd = encode (c.command d) := by
  refine BitVec.eq_of_toNat_eq ?_
  cases c with
  | byte b v =>
    rw [Chunk.command, encode_updb_toNat, Chunk.onPort, BitVec.toNat_ofNat]; omega
  | lanes n v =>
    have hn : n ≤ 8 := h
    rw [Chunk.command, encode_updw_toNat d hn, Chunk.onPort, BitVec.toNat_ofNat]; omega

end Sys2Proof.Spec

namespace Sys2Proof.Machine

open Sys2Proof.Spec

/-! ## Streaming -/

/-- The update over lanes is the fold of `upd1` over the bytes they present (R36, R104). -/
theorem updLanes_eq_foldl_bytes (s : State) (reg : Word) (n : Nat) :
    updLanes s reg n = (Chunk.lanes n s.wdata).bytes.foldl (upd1 s) reg := by
  simp only [Chunk.bytes, List.foldl_map, ← lane_toNat, BitVec.ofNat_toNat, BitVec.setWidth_eq]
  rfl

/-- The state `s` after k update commands on accumulator d that have left `reg` in it: the k responses are given, `rest`
is still to be presented, and `last` is the data operand sampled last. -/
def State.streamed (s : State) (d : Fin 16) (reg : Word) (rest : List PortCmd) (last : Word) (k : Nat) : State :=
  { s with x := s.x.set d.val reg d.isLt
           input := rest, wdata := last
           responses := s.responses ++ List.replicate k { status := 0, rdata := 0, obytes := [] } }

/-- A stream of no commands. -/
theorem State.streamed_zero (s : State) (d : Fin 16) : s.streamed d (s.getX d) s.input s.wdata 0 = s := by
  have hx : s.x.set d.val (s.getX d) d.isLt = s.x := Vector.set_getElem_self d.isLt
  simp [State.streamed, hx]

/-- Two parts of a stream are one stream. -/
theorem State.streamed_streamed (s : State) (d : Fin 16) (reg reg' : Word) (rest rest' : List PortCmd)
    (last last' : Word) (k : Nat) :
    (s.streamed d reg rest last 1).streamed d reg' rest' last' k = s.streamed d reg' rest' last' (k + 1) := by
  simp [State.streamed, List.replicate_succ]

@[simp] theorem State.getX_streamed (s : State) (d : Fin 16) (reg : Word) (rest : List PortCmd) (last : Word)
    (k : Nat) : (s.streamed d reg rest last k).getX d = reg := State.getX_setX_same s d reg

@[simp] theorem upd1_streamed (s : State) (d : Fin 16) (reg : Word) (rest : List PortCmd) (last : Word) (k : Nat) :
    upd1 (s.streamed d reg rest last k) = upd1 s := rfl

/-- One step of a stream: the bytes of the chunk presented are processed in order. -/
theorem step_chunk {s : State} {d : Fin 16} {c : Chunk} {rest : List PortCmd} (hv : s.valid = true)
    (hidx : d.val < s.cfg.nacc) (hlive : s.isAlive d = true) (hfits : c.fits) (hin : s.input = c.onPort d :: rest) :
    step s = .next (s.streamed d (c.bytes.foldl (upd1 s) (s.getX d)) rest (c.onPort d).wdata 1) := by
  have hdecode : decode (c.onPort d).cmd = .ok (c.command d) := by
    rw [Chunk.onPort_cmd hfits, decodeReadsBackEncode _ (Chunk.command_wf hfits d)]
  rw [step_legal hin hdecode]
  cases c with
  | byte b v => exact exec_updb (s := s.accept _ rest) hv hidx hlive b
  | lanes n v =>
    refine (exec_updw (s := s.accept _ rest) hv hidx hlive n).trans ?_
    rw [updLanes_eq_foldl_bytes]
    rfl

/-- A run goes on from the state its first step answers. -/
theorem run_succ_of_step {M : Host.Core} {s t : M.State} (h : M.step s = .next t) (k : Nat) :
    M.run (k + 1) s = M.run k t := by
  rw [Host.Core.run, h]

/-- The run of a stream: each step folds the bytes of its chunk into the register, and leaves the rest of the stream to
run under the same spec and table (R110). -/
theorem run_stream {d : Fin 16} {rest : List PortCmd} (cs : List Chunk) {s : State} (hv : s.valid = true)
    (hidx : d.val < s.cfg.nacc) (hlive : s.isAlive d = true) (hfits : ∀ c ∈ cs, c.fits)
    (hin : s.input = cs.map (Chunk.onPort d) ++ rest) :
    ∃ last, Host.Core.run core cs.length s =
      .next (s.streamed d ((cs.flatMap Chunk.bytes).foldl (upd1 s) (s.getX d)) rest last cs.length) := by
  induction cs generalizing s with
  | nil =>
    obtain rfl : s.input = rest := hin
    exact ⟨s.wdata, congrArg Host.Outcome.next (s.streamed_zero d).symm⟩
  | cons c cs ih =>
    have hstep := step_chunk hv hidx hlive (hfits c List.mem_cons_self) hin
    obtain ⟨last, hrun⟩ := ih (s := s.streamed d (c.bytes.foldl (upd1 s) (s.getX d)) _ (c.onPort d).wdata 1)
      hv hidx hlive (fun c hc => hfits c (List.mem_cons_of_mem _ hc)) rfl
    refine ⟨last, (run_succ_of_step (M := core) hstep cs.length).trans (hrun.trans ?_)⟩
    rw [State.streamed_streamed, State.getX_streamed, upd1_streamed, List.flatMap_cons, List.foldl_append,
      List.length_cons]

/-- Settles O36: it is the run of the stream. -/
theorem streamingEqualsOneMessage : Obligations.StreamingEqualsOneMessage := fun _ _ cs _ hv hidx hlive hfits hin =>
  run_stream cs hv hidx hlive hfits hin

end Sys2Proof.Machine
end

section
/-!
PROOFS of the family `60_exceptions.md`: which fault a command raises, what it leaves unchanged, and that the responses
and the sticky record say the same of a run.
-/
namespace Sys2Proof.Machine

open Sys2Proof.Spec

/-! ## The presented word (R133) -/

/-- A 16-bit word of the opcode table is read by the decoder itself. -/
theorem decode_of_decodeTableWord {w : Nat} {i : Instr} (h : decodeTableWord 16 w = some i) :
    decode (BitVec.ofNat 16 (w % 2 ^ 16)) = .ok i := by
  rw [decodeTableWord, if_pos (Nat.mod_lt w (by decide))] at h
  cases hd : decode (BitVec.ofNat 16 (w % 2 ^ 16)) with
  | error e => rw [hd] at h; cases h
  | ok j => rw [hd] at h; cases h; rfl

/-- Settles O8: with nothing presented the step is idle; the placed word is at the head of the host's list, and accepting
it leaves the list as it was. -/
theorem presentedWordRunsNext : Obligations.PresentedWordRunsNext := by
  refine ⟨fun s => step_idle, fun s w i h => ?_⟩
  have hin : (s.withFetchWord 16 w).input = ⟨BitVec.ofNat 16 (w % 2 ^ 16), 0⟩ :: s.input := rfl
  rw [step_legal hin (decode_of_decodeTableWord h)]
  rfl

/-! ## A fault squashes its command (R125) -/

/-- Everything a step on a presented command can do: one fault, or the writes and the response of a command. -/
theorem step_presented_cases {s t : State} {c : PortCmd} {rest : List PortCmd} (hin : s.input = c :: rest)
    (h : step s = .next t) :
    (∃ cause, t = (s.accept c rest).takeFault cause) ∨
    ∃ i v bs, t = (writes (s.accept c rest) i).respond v bs := by
  cases hd : decode c.cmd with
  | error e =>
    rw [step_illegal hin hd] at h
    injection h with h
    exact .inl ⟨_, h.symm⟩
  | ok i =>
    rw [step_legal hin hd] at h
    obtain ⟨cause, -, ht⟩ | ⟨-, ht⟩ := exec_cases h
    · exact .inl ⟨cause, ht⟩
    · exact .inr ⟨i, _, _, ht⟩

/-- Settles O40: a fault taken is the squashed state of its cause; a command that passed its tests writes no FAULTS bit. -/
theorem faultingCommandIsSquashed : Obligations.FaultingCommandIsSquashed := by
  intro s t c rest hin h
  obtain ⟨cause, rfl⟩ | ⟨i, v, bs, rfl⟩ := step_presented_cases hin h
  · right
    cases cause with
    | illegalCommand => exact .inl rfl
    | invalidSpecification => exact .inr (.inl rfl)
    | notConfigured => exact .inr (.inr (.inl rfl))
    | badAccumulator => exact .inr (.inr (.inr (.inl rfl)))
    | deadAccumulator => exact .inr (.inr (.inr (.inr rfl)))
  · exact .inl ⟨by simp, ⟨0, v, bs⟩, by simp, rfl⟩

/-! ## Which fault a command raises (R121, R122, R124) -/

theorem checkCfg_eq_some_iff {s : State} {c : Cause} :
    checkCfg s = some c ↔ c = .notConfigured ∧ s.valid = false :=
  ⟨checkCfg_some, by rintro ⟨rfl, hv⟩; simp [checkCfg, hv]⟩

theorem checkIdx_eq_some_iff {s : State} {i : Fin 16} {c : Cause} :
    checkIdx s i = some c ↔ c = .badAccumulator ∧ s.cfg.nacc ≤ i.val :=
  ⟨checkIdx_some, by rintro ⟨rfl, hi⟩; simp [checkIdx, hi]⟩

theorem checkLive_eq_some_iff {s : State} {i : Fin 16} {c : Cause} :
    checkLive s i = some c ↔ c = .deadAccumulator ∧ s.isAlive i = false :=
  ⟨checkLive_some, by rintro ⟨rfl, hi⟩; simp [checkLive, hi]⟩

theorem checkWidth_eq_some_iff {s : State} {c : Cause} :
    checkWidth s = some c ↔ c = .invalidSpecification ∧ ¬ Admitted s.sWidth.toNat := by
  rw [← validWidth_iff, checkWidth]
  cases validWidth s.sWidth with
  | true => simp
  | false => simp [eq_comm]

/-- The fault of one test made of each of several accumulators, whose only fault is `c`. -/
theorem firstFault_map_eq_some_iff {f : Fin 16 → Option Cause} {P : Fin 16 → Prop} {c d : Cause}
    (hf : ∀ {j d}, f j = some d ↔ d = c ∧ P j) {l : List (Fin 16)} :
    firstFault (l.map f) = some d ↔ d = c ∧ ∃ j ∈ l, P j := by
  constructor
  · intro h
    obtain ⟨j, hj, hd⟩ := List.mem_map.1 (firstFault_mem h)
    exact ⟨(hf.1 hd).1, j, hj, (hf.1 hd).2⟩
  · rintro ⟨rfl, j, hj, hP⟩
    exact firstFault_map_eq_some (fun h => (hf.1 h).1) ⟨j, hj, hf.2 ⟨rfl, hP⟩⟩

/-- When the command `i` raises the fault in the state `s` (R121, R122), the faults before it in the order of R124
ruled out. -/
def Raises (s : State) (i : Instr) : Cause → Prop
  | .illegalCommand => False
  | .invalidSpecification => (∃ b, i = .build b) ∧ ¬ Admitted s.sWidth.toNat
  | .notConfigured => needsSpec i = true ∧ s.valid = false
  | .badAccumulator => s.valid = true ∧ ∃ j ∈ usedIndices i, s.cfg.nacc ≤ j.val
  | .deadAccumulator => s.valid = true ∧ (∀ j ∈ usedIndices i, j.val < s.cfg.nacc) ∧
      ∃ j ∈ readIndices i, s.isAlive j = false

/-- The first fault of a command that needs the active spec, group by group of its tests. -/
theorem firstFault_tests_of_needsSpec {i : Instr} (h : needsSpec i = true) (s : State) :
    firstFault (tests s i) = (checkCfg s).or
      ((firstFault ((usedIndices i).map (checkIdx s))).or (firstFault ((readIndices i).map (checkLive s)))) := by
  rw [tests_of_needsSpec h, ← firstFault_append]
  cases checkCfg s <;> rfl

/-- The fault of a command that needs the active spec is the one of the first group of tests that fails. -/
theorem firstFault_tests_of_needsSpec_iff {s : State} {i : Instr} (h : needsSpec i = true) {c : Cause} :
    firstFault (tests s i) = some c ↔ Raises s i c := by
  have hbuild : ¬ ∃ b, i = .build b := by rintro ⟨b, rfl⟩; cases h
  have hidx : firstFault ((usedIndices i).map (checkIdx s)) = none ↔ ∀ j ∈ usedIndices i, j.val < s.cfg.nacc := by
    simp [firstFault_eq_none, checkIdx_eq_none]
  rw [firstFault_tests_of_needsSpec h, Option.or_eq_some_iff, Option.or_eq_some_iff, checkCfg_eq_some_iff,
    checkCfg_eq_none, firstFault_map_eq_some_iff checkIdx_eq_some_iff, hidx,
    firstFault_map_eq_some_iff checkLive_eq_some_iff]
  cases c <;> simp [Raises, h, hbuild]

/-- A command raises the fault whose condition holds: one that does not need the active spec has no test but BUILD's. -/
theorem firstFault_tests_eq_some_iff {s : State} {i : Instr} {c : Cause} :
    firstFault (tests s i) = some c ↔ Raises s i c := by
  cases i with
  | build b =>
    have hone : firstFault (tests s (.build b)) = checkWidth s := by
      rw [tests]; cases checkWidth s <;> rfl
    rw [hone, checkWidth_eq_some_iff]
    cases c <;> simp [Raises, needsSpec, usedIndices, readIndices]
  | wrspecWidth | wrspecPoly | wrspecInit | wrspecXorout | rdspecStatus =>
    cases c <;> simp [tests, Raises, needsSpec, usedIndices, readIndices]
  | _ => exact firstFault_tests_of_needsSpec_iff rfl

/-! ## The status of a response (R121) -/

/-- The status that answers a command: the code of the fault it raises, or 0. -/
def statusOf : Option Cause → Nibble
  | none => 0
  | some c => c.code

theorem statusOf_eq_code_iff {f : Option Cause} {c : Cause} : statusOf f = c.code ↔ f = some c := by
  cases f with
  | none => simpa [statusOf] using c.code_ne_zero.symm
  | some d => exact ⟨fun h => congrArg some (Cause.code_inj h), fun h => congrArg statusOf h⟩

theorem statusOf_eq_zero_iff {f : Option Cause} : statusOf f = 0 ↔ f = none := by
  cases f with
  | none => simp [statusOf]
  | some c => simpa [statusOf] using c.code_ne_zero

theorem statusOf_toNat_le (f : Option Cause) : (statusOf f).toNat ≤ 5 := by
  cases f with
  | none => decide
  | some c => cases c <;> decide

/-- A command is answered once, with the status of the fault it raises. -/
theorem exec_status {i : Instr} {s t : State} (h : exec i s = .next t) :
    ∃ r, t.responses = s.responses ++ [r] ∧ r.status = statusOf (firstFault (tests s i)) := by
  obtain ⟨c, hf, rfl⟩ | ⟨hp, rfl⟩ := exec_cases h
  · exact ⟨_, State.takeFault_responses s c, by rw [hf]; rfl⟩
  · exact ⟨_, by rw [State.respond_responses, writes_responses], by rw [hp]; rfl⟩

/-- Settles O41: a word that is no command is answered 1 at once, and of a command's codes each is the fault with that
number, whose condition is `Raises`. -/
theorem faultCausesInFixedPriority : Obligations.FaultCausesInFixedPriority := by
  intro s t c rest hin h
  cases hd : decode c.cmd with
  | error e =>
    rw [step_illegal hin hd] at h
    injection h with h
    subst h
    exact ⟨⟨1, 0, []⟩, rfl, by decide, by simp, fun i hi => (nomatch hi)⟩
  | ok i =>
    rw [step_legal hin hd] at h
    obtain ⟨r, hr, hstatus⟩ := exec_status h
    have hcode : ∀ cause : Cause, r.status = cause.code ↔ Raises (s.accept c rest) i cause := fun cause => by
      rw [hstatus, statusOf_eq_code_iff, firstFault_tests_eq_some_iff]
    have hzero : r.status = 0 ↔ firstFault (tests (s.accept c rest) i) = none := by
      rw [hstatus, statusOf_eq_zero_iff]
    refine ⟨r, hr, hstatus ▸ statusOf_toNat_le _, ?_, ?_⟩
    · exact ⟨fun h1 => ((hcode .illegalCommand).1 h1).elim, fun hnone => absurd rfl (hnone i)⟩
    · rintro _ ⟨⟩
      refine ⟨hcode .invalidSpecification, hcode .notConfigured, hcode .badAccumulator, hcode .deadAccumulator, ?_⟩
      rw [hzero, tests_pass_iff, forall_exists_index]
      rfl

/-! ## The responses and the sticky record agree (R125, R146) -/

/-- After a fault neither reading calls the run clean. -/
theorem State.recordAgrees_takeFault (s : State) (c : Cause) : (s.takeFault c).RecordAgrees := by
  refine iff_of_false (fun hfree => ?_) (fun haccepted => ?_)
  · exact absurd (hfree c) (by simp)
  · exact c.code_ne_zero (haccepted ⟨c.code, 0, []⟩ (by simp))

/-- A command that passed its tests changes neither reading. -/
theorem recordAgrees_writes_respond {s : State} {i : Instr} {v : Word} {bs : List Byte} :
    ((writes s i).respond v bs).RecordAgrees ↔ s.RecordAgrees := by
  have hfree : ((writes s i).respond v bs).FaultFree ↔ s.FaultFree := by simp [State.FaultFree]
  have haccepted : ((writes s i).respond v bs).AllAccepted ↔ s.AllAccepted := by
    simp [State.AllAccepted, or_imp, forall_and]
  rw [State.RecordAgrees, State.RecordAgrees, hfree, haccepted]

/-- Settles O43: at reset no bit is set and nothing is answered; a step is idle, a fault, or a command that passed. -/
theorem cleanStatusesMeanCleanFaults : Obligations.CleanStatusesMeanCleanFaults := by
  refine ⟨fun c => iff_of_true (fun cause => ?_) (by simp [State.AllAccepted, State.resetOf]), fun s t hs h => ?_⟩
  · cases cause <;> rfl
  · obtain rfl | ⟨c, rest, cause, -, rfl⟩ | ⟨c, rest, i, v, bs, -, -, -, rfl⟩ := step_outcomes h
    · exact hs
    · exact State.recordAgrees_takeFault _ _
    · exact recordAgrees_writes_respond.2 hs

end Sys2Proof.Machine
end

section
/-!
PROOFS of the family `70_reset_and_hazards.md`: no command hangs and no fault stops the block (R144, R126).
-/
namespace Sys2Proof.Machine

/-- Every command answers a state: a fault is taken in the state and is no stop (R126). -/
theorem exec_total (i : Instr) (s : State) : ∃ t, exec i s = .next t := by
  cases hf : firstFault (tests s i) with
  | none => exact ⟨_, exec_pass hf⟩
  | some c => exact ⟨_, exec_fail hf⟩

/-- Every step answers a state: idle, on a word that is no command, and on a command (R144). -/
theorem step_total (s : State) : ∃ t, step s = .next t := by
  cases hin : s.input with
  | nil => exact ⟨s, step_idle hin⟩
  | cons c rest =>
    cases hd : decode c.cmd with
    | error e => exact ⟨_, step_illegal hin hd⟩
    | ok i =>
      rw [step_legal hin hd]
      exact exec_total i (s.accept c rest)

/-- Settles O9, by induction on the number of steps, from every state: each step answers a state (`step_total`). -/
theorem runNeverStops : Obligations.RunNeverStops := by
  intro k
  induction k with
  | zero => exact fun s => ⟨s, rfl⟩
  | succ k ih =>
    intro s
    obtain ⟨t, ht⟩ := step_total s
    obtain ⟨u, hu⟩ := ih t
    exact ⟨u, (run_succ_of_step (M := core) ht k).trans hu⟩

end Sys2Proof.Machine
end

section
/-!
PROOFS of the family `other`: the commands of the sample words.
-/
namespace Sys2Proof

/-- A word is read as a command exactly when it is the word of that command and the command is well formed (R47, R55): the
decoder and the encoder are inverse to each other. -/
theorem decode_eq_ok_iff {c : CmdWord} {i : Instr} : decode c = .ok i ↔ i.wf = true ∧ encode i = c := by
  refine ⟨encodeRestoresLegalWord c i, ?_⟩
  rintro ⟨hwf, rfl⟩
  exact decodeReadsBackEncode i hwf

/-- Settles O5: each sample of a command is the word the encoder gives that command (`decode_eq_ok_iff`); the words and
the four reasons of refusal are then computed. -/
theorem sampleWordsDecode : Obligations.SampleWordsDecode := by
  simp only [Obligations.SampleWordsDecode, decode_eq_ok_iff]
  decide

end Sys2Proof
end
